-- ==== Sys2Proof/Word.lean ====
section
/-! DEFINITION. The words of the protocol block and the plain data its commands, packets and registers are made of.
Widths are those of spec/10_state.md R20, R26 and spec/30_encoding.md R70, R80. -/

namespace Sys2Proof

/-- A payload byte `P[k]`, a `u8` (20_memory.md R50). -/
abbrev Byte := BitVec 8

/-- The 32-bit command word `CMD` (30_encoding.md R70). -/
abbrev CmdWord := BitVec 32

/-- One entry of `RES_MV`: `face | (modifier << 3)` (10_state.md R26). -/
abbrev MoveCode := BitVec 5

/-- The three raw velocity fields of an orientation packet (30_encoding.md R81). -/
abbrev Velocity := Vector (BitVec 4) 3

/-- A face of the puzzle (00_scope.md R13). -/
inductive Face where
  | u | r | f | d | l | b
deriving DecidableEq, Repr

/-- A modifier: none (clockwise), `'` (counter-clockwise) or `2` (half turn) (00_scope.md R13). -/
inductive Modifier where
  | cw | ccw | half
deriving DecidableEq, Repr

/-- The values register GEN ever holds (10_state.md R21). -/
inductive Generation where
  | none | gen2 | gen3 | gen4
deriving DecidableEq, Repr

/-- Four quaternion components in the order w, x, y, z (10_state.md R25). -/
structure Quat (α : Type) where
  w : α
  x : α
  y : α
  z : α
deriving DecidableEq, Repr

/-- Apply one conversion to all four components. -/
def Quat.map {α β : Type} (g : α → β) (q : Quat α) : Quat β :=
  { w := g q.w, x := g q.x, y := g q.y, z := g q.z }

/-- Raw sign-magnitude codes, and equally the 16-bit numerator registers `QPREV` and `QCUR`. -/
abbrev Quat16 := Quat (BitVec 16)

/-- The 33-bit numerators of `RES_QREL` (45_orientation.md R164). -/
abbrev Quat33 := Quat (BitVec 33)

/-- The four arrays of a cube state at the widths of 10_state.md R20: the registers, the operand block of RECON
(30_encoding.md R80: a lane holds any value its width allows), and `RES_EXP`, `RES_ACT`. -/
structure CubeState where
  cp : Vector (BitVec 3) 8
  co : Vector (BitVec 2) 8
  ep : Vector (BitVec 4) 12
  eo : Vector (BitVec 1) 12
deriving DecidableEq, Repr

/-- The solved state (10_state.md R35). -/
def CubeState.solved : CubeState where
  cp := #v[0, 1, 2, 3, 4, 5, 6, 7]
  co := #v[0, 0, 0, 0, 0, 0, 0, 0]
  ep := #v[0, 1, 2, 3, 4, 5, 6, 7, 8, 9, 10, 11]
  eo := #v[0, 0, 0, 0, 0, 0, 0, 0, 0, 0, 0, 0]

/-- Every lane 0: what `RES_EXP` and `RES_ACT` read in the empty result (10_state.md R26). -/
def CubeState.zero : CubeState where
  cp := #v[0, 0, 0, 0, 0, 0, 0, 0]
  co := #v[0, 0, 0, 0, 0, 0, 0, 0]
  ep := #v[0, 0, 0, 0, 0, 0, 0, 0, 0, 0, 0, 0]
  eo := #v[0, 0, 0, 0, 0, 0, 0, 0, 0, 0, 0, 0]

/-- The tables of one face in `MOVE_TABLES` (00_scope.md R8). -/
structure FaceTable where
  cp : Fin 8 → Fin 8
  co : Fin 8 → Fin 3
  ep : Fin 12 → Fin 12
  eo : Fin 12 → Fin 2

/-- A slot of a Gen2 move batch: a 4-bit face and a 1-bit direction (30_encoding.md R82). -/
structure Slot where
  face : BitVec 4
  dir : BitVec 1
deriving DecidableEq, Repr

/-- The operand block of a command record (30_encoding.md R80). -/
inductive OperandBlock where
  | none
  | payload (bytes : List Byte)
  | state (reported : CubeState)
  | quaternion (raw : Quat16)
deriving DecidableEq, Repr

/-- A command record: the command word and its operand block (30_encoding.md R70). -/
structure CommandRecord where
  word : CmdWord
  block : OperandBlock
deriving DecidableEq, Repr

end Sys2Proof
end

