-- ==== Sys2Proof/Machine/Turn.lean ====
section
/-! DEFINITION. The quarter turn (spec/40_cube_state.md R100) over any face table, and the properties WT1 to WT4 that
R104 lets a model assume of a table. It stands below Config because the parameter MOVE_TABLES carries them. -/

namespace Sys2Proof.Machine

/-- `QT(f)` for a face whose tables are `T` (R100). All reads use the values before the turn. -/
def quarterTurn (T : FaceTable) (c : CubeState) : CubeState where
  cp := Vector.ofFn fun i => c.cp[T.cp i]
  co := Vector.ofFn fun i => BitVec.ofNat 2 ((c.co[T.cp i].toNat + (T.co i).val) % 3)
  ep := Vector.ofFn fun j => c.ep[T.ep j]
  eo := Vector.ofFn fun j => BitVec.ofNat 1 ((c.eo[T.ep j].toNat + (T.eo j).val) % 2)

/-- `n` quarter turns in sequence, each on the result of the last (R102). -/
def turnTimes (T : FaceTable) : Nat → CubeState → CubeState
  | 0, c => c
  | n + 1, c => turnTimes T n (quarterTurn T c)

/-- Every `CO[i]` is in 0..2, the values R23 gives the two-bit register. -/
def coInRange (c : CubeState) : Bool := c.co.toList.all fun v => decide (v.toNat ≤ 2)

/-- The properties a model may assume of a face's tables (R104). WT2, the ranges of `co` and `eo`, is in their types. -/
structure WellTabled (T : FaceTable) : Prop where
  wt1_corners : Function.Injective T.cp
  wt1_edges : Function.Injective T.ep
  wt3_corners : (∑ i, (T.co i).val) % 3 = 0
  wt3_edges : (∑ j, (T.eo j).val) % 2 = 0
  wt4 : ∀ c : CubeState, coInRange c = true → turnTimes T 4 c = c

/-- The table that moves nothing: only the witness that tables with WT1 to WT4 exist. -/
def stillTable : FaceTable where
  cp := id
  co := fun _ => 0
  ep := id
  eo := fun _ => 0

theorem quarterTurn_still (c : CubeState) (h : coInRange c = true) : quarterTurn stillTable c = c := by
  have hco : ∀ i : Fin 8, c.co[i].toNat ≤ 2 := fun i => by
    have := List.all_eq_true.mp h c.co[i] (by simp)
    simpa using this
  cases c with
  | mk cp co ep eo =>
    simp only [quarterTurn, stillTable, id, CubeState.mk.injEq]
    refine ⟨?_, ?_, ?_, ?_⟩ <;> ext i hi
    · simp
    · have := hco ⟨i, hi⟩
      simp only [Fin.getElem_fin] at this
      simp [Nat.mod_eq_of_lt (by omega : co[i].toNat < 3)]
    · simp
    · have := eo[i].isLt
      simp [Nat.mod_eq_of_lt (by omega : eo[i].toNat < 2)]

theorem stillTable_wellTabled : WellTabled stillTable where
  wt1_corners := Function.injective_id
  wt1_edges := Function.injective_id
  wt3_corners := by decide
  wt3_edges := by decide
  wt4 := fun c h => by simp [turnTimes, quarterTurn_still c h]

end Sys2Proof.Machine
end

