-- ==== Sys2Proof/Config.lean ====
section
/-! DEFINITION. What is fixed for one protocol block (spec/00_scope.md R8): the two OPEN parameters as opaque
constants, of which nothing can be proved but the properties the spec grants them, and the values the spec decides. -/

namespace Sys2Proof

/-- Tables for the six faces with the properties WT1 to WT4 of 40_cube_state.md R104. The default value only shows
that such tables exist. -/
structure MoveTables where
  table : Face → FaceTable := fun _ => Machine.stillTable
  wellTabled : ∀ face, Machine.WellTabled (table face) := by exact fun _ => Machine.stillTable_wellTabled
deriving Inhabited

/-- `MOVE_TABLES`, OPEN (R8, R104): any tables satisfying WT1 to WT4. Log 2. -/
opaque Config.moveTables : MoveTables

/-- `FACE_REMAP`, OPEN (R8, 41_decode_common.md R114): any function from 0..5 to 0..5. Log 1. -/
opaque Config.faceRemap : Fin 6 → Fin 6

/-- `RESEED_ON_SNAPSHOT`, decided `false` (R8, 92_eei_decisions.md D17). Log 3. -/
def Config.reseedOnSnapshot : Bool := false

/-- `DIR3_IS_CCW`, decided `false` (R8, 92_eei_decisions.md D8). Log 3. -/
def Config.dir3IsCcw : Bool := false

/-- The payload lengths `DECODE` accepts (41_decode_common.md R110). -/
def Config.payloadLengths : List Nat := [18, 19, 20]

/-- The slots one Gen2 batch carries (R8, 44_decode_gen2.md R144). -/
def Config.batchCapacity : Nat := 7

end Sys2Proof
end

