-- ==== Sys2Proof/Syntax.lean ====
section
/-! DEFINITION. The instructions: one constructor per row of spec/opcode_table.json, seven commands and the eleven
packet kinds that DECODE distinguishes. Operands are the fields of the command word, the operand block, or the payload
fields of 30_encoding.md R81, already taken out. -/

namespace Sys2Proof

/-- One constructor per row of the opcode table. A field that a command itself checks (APPLY's face and modifier,
SETGEN's generation, a one-hot field, a slot's face) keeps every value its width allows. -/
inductive Instr where
  /-- `NOP` (47_control.md R180). -/
  | nop
  /-- `RESET` (47_control.md R181). -/
  | reset
  /-- `SETGEN g`, `g = CMD[10:8]` (47_control.md R182). -/
  | setgen (g : BitVec 3)
  /-- `DECODE LEN, P`, `LEN` being the number of payload bytes (41_decode_common.md R110). -/
  | decode (payload : List Byte)
  /-- `APPLY face, mod` (40_cube_state.md R101). -/
  | apply (face : BitVec 3) (mod : BitVec 2)
  /-- `RECON cp, co, ep, eo` (46_reconciliation.md R170). -/
  | recon (reported : CubeState)
  /-- `ORIENT qw, qx, qy, qz` (45_orientation.md R165). -/
  | orient (raw : Quat16)
  /-- Gen4 move packet (42_decode_gen4.md R121). -/
  | g4Move (dir : BitVec 2) (onehot : BitVec 6)
  /-- Gen4 orientation packet (42_decode_gen4.md R122). -/
  | g4Orient (raw : Quat16) (vel : Velocity)
  /-- Any other Gen4 packet (42_decode_gen4.md R123). -/
  | g4Unknown (tag : Byte)
  /-- Gen3 frame that fails both checks (43_decode_gen3.md R130). -/
  | g3Dropped (magic tag b2 : Byte)
  /-- Gen3 move packet whose frame is valid by its byte 0 (43_decode_gen3.md R131). -/
  | g3MoveA (dir : BitVec 2) (onehot : BitVec 6)
  /-- Gen3 move packet whose frame is valid by its byte 2 (43_decode_gen3.md R131). -/
  | g3MoveB (dir : BitVec 2) (onehot : BitVec 6)
  /-- Valid Gen3 frame that is no move (43_decode_gen3.md R132). -/
  | g3Unknown (magic tag b2 : Byte)
  /-- Gen2 snapshot packet (44_decode_gen2.md R142). -/
  | g2Snapshot (counter : Byte)
  /-- Gen2 move-batch packet, slot 0 the most recent move (44_decode_gen2.md R143). -/
  | g2Batch (counter : Byte) (slots : Vector Slot 7)
  /-- Gen2 orientation packet (44_decode_gen2.md R149). -/
  | g2Orient (raw : Quat16) (vel : Velocity)
  /-- Any other Gen2 packet (44_decode_gen2.md R150). -/
  | g2Unknown (tag : BitVec 4)
deriving DecidableEq, Repr

end Sys2Proof
end

