-- ==== Sys2Proof/WellFormed.lean ====
section
/-! DEFINITION. Which instructions are words of their row: the conditions of spec/opcode_table.json and
spec/30_encoding.md R79, R83. -/

namespace Sys2Proof

/-- `LEN` is eight bits wide (30_encoding.md R79); a packet kind's tag or frame bytes are those of its row (R83).
Fields a command checks itself are free, since the command gives every value an outcome. -/
def Instr.wellFormed : Instr → Bool
  | .nop => true
  | .reset => true
  | .setgen _ => true
  | .decode payload => decide (payload.length < 256)
  | .apply _ _ => true
  | .recon _ => true
  | .orient _ => true
  | .g4Move _ _ => true
  | .g4Orient _ _ => true
  | .g4Unknown tag => decide (tag ≠ 0x01#8 ∧ tag ≠ 0xEC#8)
  | .g3Dropped magic _ b2 => decide (magic ≠ 0x55#8 ∧ b2 ≠ 0x00#8)
  | .g3MoveA _ _ => true
  | .g3MoveB _ _ => true
  | .g3Unknown magic tag b2 => decide ((magic = 0x55#8 ∨ b2 = 0x00#8) ∧ tag ≠ 0x01#8)
  | .g2Snapshot _ => true
  | .g2Batch _ _ => true
  | .g2Orient _ _ => true
  | .g2Unknown tag => decide (tag ≠ 0x1#4 ∧ tag ≠ 0x2#4 ∧ tag ≠ 0x4#4)

end Sys2Proof
end

