-- ==== Sys2Proof/Decode.lean ====
section
/-! DEFINITION. Reading: the payload as a bit string (spec/20_memory.md), command records (spec/30_encoding.md R70 to
R80) and packets (R81 to R83). Writing: an encoder from the same tables. Both are total. -/

namespace Sys2Proof

/-! ### The payload as a bit string -/

/-- `P[k]` (20_memory.md R50). Past the end it reads 0, which no accepted payload reaches (R54, log 9). -/
def payloadByte (P : List Byte) (k : Nat) : Byte := P.getD k 0

/-- `PBit(off)`: bit `7 - (off mod 8)` of byte `P[off div 8]` (20_memory.md R51). -/
def payloadBit (P : List Byte) (off : Nat) : Bool := (payloadByte P (off / 8)).getLsbD (7 - off % 8)

/-- `Field(off, w)`: the first bit of the window is the most significant (20_memory.md R52). -/
def field (P : List Byte) (off : Nat) : (w : Nat) → BitVec w
  | 0 => 0#0
  | w + 1 => BitVec.cons (payloadBit P off) (field P (off + 1) w)

/-- Four 16-bit components packed contiguously from `off`, in the order w, x, y, z (30_encoding.md R81). -/
def quatField (P : List Byte) (off : Nat) : Quat16 where
  w := field P off 16
  x := field P (off + 16) 16
  y := field P (off + 32) 16
  z := field P (off + 48) 16

/-- Three 4-bit velocity components from `off` (30_encoding.md R81). -/
def velField (P : List Byte) (off : Nat) : Velocity :=
  #v[field P off 4, field P (off + 4) 4, field P (off + 8) 4]

/-- Slot `i` of a Gen2 move batch (30_encoding.md R82). -/
def slotField (P : List Byte) (i : Nat) : Slot where
  face := field P (12 + 5 * i) 4
  dir := field P (16 + 5 * i) 1

/-! ### Packets -/

/-- A decoded packet: the eleven packet kinds with their fields (30_encoding.md R81, R83). -/
inductive Packet where
  | g4Move (dir : BitVec 2) (onehot : BitVec 6)
  | g4Orient (raw : Quat16) (vel : Velocity)
  | g4Unknown (tag : Byte)
  | g3Dropped (magic tag b2 : Byte)
  | g3MoveA (dir : BitVec 2) (onehot : BitVec 6)
  | g3MoveB (dir : BitVec 2) (onehot : BitVec 6)
  | g3Unknown (magic tag b2 : Byte)
  | g2Snapshot (counter : Byte)
  | g2Batch (counter : Byte) (slots : Vector Slot 7)
  | g2Orient (raw : Quat16) (vel : Velocity)
  | g2Unknown (tag : BitVec 4)
deriving DecidableEq, Repr

/-- The instruction a packet is. -/
def Packet.toInstr : Packet → Instr
  | .g4Move dir onehot => .g4Move dir onehot
  | .g4Orient raw vel => .g4Orient raw vel
  | .g4Unknown tag => .g4Unknown tag
  | .g3Dropped magic tag b2 => .g3Dropped magic tag b2
  | .g3MoveA dir onehot => .g3MoveA dir onehot
  | .g3MoveB dir onehot => .g3MoveB dir onehot
  | .g3Unknown magic tag b2 => .g3Unknown magic tag b2
  | .g2Snapshot counter => .g2Snapshot counter
  | .g2Batch counter slots => .g2Batch counter slots
  | .g2Orient raw vel => .g2Orient raw vel
  | .g2Unknown tag => .g2Unknown tag

/-- `DecodeGen4(P)` up to the choice of the packet kind (42_decode_gen4.md R120 to R123). -/
def decodeGen4 (P : List Byte) : Packet :=
  let tag4 := field P 0 8
  if tag4 = 0x01#8 then .g4Move (field P 64 2) (field P 66 6)
  else if tag4 = 0xEC#8 then .g4Orient (quatField P 16) (velField P 80)
  else .g4Unknown tag4

/-- `DecodeGen3(P)` up to the choice of the packet kind (43_decode_gen3.md R130 to R132). A frame valid by both checks
is of row G3.MOVE.A; the two rows mean the same. -/
def decodeGen3 (P : List Byte) : Packet :=
  let magic := field P 0 8
  let tag3 := field P 8 8
  let b2 := field P 16 8
  if ¬(magic = 0x55#8 ∨ b2 = 0x00#8) then .g3Dropped magic tag3 b2
  else if tag3 = 0x01#8 then
    if magic = 0x55#8 then .g3MoveA (field P 72 2) (field P 74 6) else .g3MoveB (field P 72 2) (field P 74 6)
  else .g3Unknown magic tag3 b2

/-- `DecodeGen2(P)` up to the choice of the packet kind (44_decode_gen2.md R140 to R150). -/
def decodeGen2 (P : List Byte) : Packet :=
  let tag2 := field P 0 4
  if tag2 = 0x4#4 then .g2Snapshot (field P 4 8)
  else if tag2 = 0x2#4 then .g2Batch (field P 4 8) (Vector.ofFn fun i : Fin 7 => slotField P i.val)
  else if tag2 = 0x1#4 then .g2Orient (quatField P 4) (velField P 68)
  else .g2Unknown tag2

/-- The packet a payload is for a generation (30_encoding.md R83); none when no generation is selected. -/
def decodePacket (g : Generation) (P : List Byte) : Option Packet :=
  match g with
  | .none => none
  | .gen4 => some (decodeGen4 P)
  | .gen3 => some (decodeGen3 P)
  | .gen2 => some (decodeGen2 P)

/-! ### Command records -/

/-- Why a record is no instruction. The first two are the status ILLEGAL_CMD (30_encoding.md R74, R75); the last two
are records that are not well formed (R79; R70 with R80), to which a model gives no step. -/
inductive DecodeError where
  | unassignedOpcode
  | reservedBits
  | payloadLength
  | operandKind
deriving DecidableEq, Repr

/-- `OPC = CMD[7:0]` (30_encoding.md R71). -/
def opcodeField (w : CmdWord) : BitVec 8 := w.extractLsb' 0 8

/-- `GEN = CMD[10:8]`, format G (30_encoding.md R72). -/
def genField (w : CmdWord) : BitVec 3 := w.extractLsb' 8 3

/-- `LEN = CMD[15:8]`, format P (30_encoding.md R72, R79). -/
def lenField (w : CmdWord) : BitVec 8 := w.extractLsb' 8 8

/-- `FACE = CMD[10:8]`, format M (30_encoding.md R72, R76). -/
def faceField (w : CmdWord) : BitVec 3 := w.extractLsb' 8 3

/-- `MOD = CMD[12:11]`, format M (30_encoding.md R72, R77). -/
def modField (w : CmdWord) : BitVec 2 := w.extractLsb' 11 2

/-- A record whose format reserves the bits from `lowest` up: they must all be 0 (30_encoding.md R72, R74). -/
def whenReservedClear (w : CmdWord) (lowest : Nat) (k : Except DecodeError Instr) : Except DecodeError Instr :=
  if w >>> lowest = 0#32 then k else .error .reservedBits

/-- A command without an operand block (30_encoding.md R80). -/
def withNoBlock (i : Instr) : OperandBlock → Except DecodeError Instr
  | .none => .ok i
  | .payload _ => .error .operandKind
  | .state _ => .error .operandKind
  | .quaternion _ => .error .operandKind

/-- A payload of exactly `LEN` bytes (30_encoding.md R79). -/
def withPayload (len : BitVec 8) : OperandBlock → Except DecodeError Instr
  | .payload bytes => if bytes.length = len.toNat then .ok (.decode bytes) else .error .payloadLength
  | .none => .error .operandKind
  | .state _ => .error .operandKind
  | .quaternion _ => .error .operandKind

/-- A reported state (30_encoding.md R80). -/
def withState : OperandBlock → Except DecodeError Instr
  | .state reported => .ok (.recon reported)
  | .none => .error .operandKind
  | .payload _ => .error .operandKind
  | .quaternion _ => .error .operandKind

/-- Four raw quaternion components (30_encoding.md R80). -/
def withQuaternion : OperandBlock → Except DecodeError Instr
  | .quaternion raw => .ok (.orient raw)
  | .none => .error .operandKind
  | .payload _ => .error .operandKind
  | .state _ => .error .operandKind

/-- The opcode map (30_encoding.md R73) with the reserved bits of each format (R72). The word is judged before the
operand block, so an illegal word is illegal with any block (log 6). -/
def decodeRecord (r : CommandRecord) : Except DecodeError Instr :=
  let opc := opcodeField r.word
  if opc = 0x00#8 then whenReservedClear r.word 8 (withNoBlock .nop r.block)
  else if opc = 0x01#8 then whenReservedClear r.word 8 (withNoBlock .reset r.block)
  else if opc = 0x02#8 then whenReservedClear r.word 11 (withNoBlock (.setgen (genField r.word)) r.block)
  else if opc = 0x10#8 then whenReservedClear r.word 16 (withPayload (lenField r.word) r.block)
  else if opc = 0x20#8 then
    whenReservedClear r.word 13 (withNoBlock (.apply (faceField r.word) (modField r.word)) r.block)
  else if opc = 0x30#8 then whenReservedClear r.word 8 (withState r.block)
  else if opc = 0x40#8 then whenReservedClear r.word 8 (withQuaternion r.block)
  else .error .unassignedOpcode

/-! ### The encoder -/

/-- A `w`-bit value at payload offset `off` of a 20-byte payload, offset 0 being the most significant bit of byte 0. -/
def placeField (off : Nat) {w : Nat} (v : BitVec w) : BitVec 160 := v.setWidth 160 <<< (160 - off - w)

/-- The 20 bytes of a payload given as one bit string (20_memory.md R51). -/
def payloadOf (bits : BitVec 160) : List Byte :=
  (List.range 20).map fun k => bits.extractLsb' (152 - 8 * k) 8

/-- Four components from `off` (30_encoding.md R81). -/
def placeQuat (off : Nat) (q : Quat16) : BitVec 160 :=
  placeField off q.w ||| placeField (off + 16) q.x ||| placeField (off + 32) q.y ||| placeField (off + 48) q.z

/-- Three velocity components from `off` (30_encoding.md R81). -/
def placeVel (off : Nat) (v : Velocity) : BitVec 160 :=
  placeField off v[0] ||| placeField (off + 4) v[1] ||| placeField (off + 8) v[2]

/-- Slot `i` of a batch (30_encoding.md R82). -/
def placeSlot (i : Nat) (s : Slot) : BitVec 160 :=
  placeField (12 + 5 * i) s.face ||| placeField (16 + 5 * i) s.dir

/-- The payload bit string of a packet, with every unread bit 0 (30_encoding.md R81, log 19). -/
def Packet.bits : Packet → BitVec 160
  | .g4Move dir onehot => placeField 0 0x01#8 ||| placeField 64 dir ||| placeField 66 onehot
  | .g4Orient raw vel => placeField 0 0xEC#8 ||| placeQuat 16 raw ||| placeVel 80 vel
  | .g4Unknown tag => placeField 0 tag
  | .g3Dropped magic tag b2 => placeField 0 magic ||| placeField 8 tag ||| placeField 16 b2
  | .g3MoveA dir onehot =>
    placeField 0 0x55#8 ||| placeField 8 0x01#8 ||| placeField 72 dir ||| placeField 74 onehot
  | .g3MoveB dir onehot => placeField 8 0x01#8 ||| placeField 72 dir ||| placeField 74 onehot
  | .g3Unknown magic tag b2 => placeField 0 magic ||| placeField 8 tag ||| placeField 16 b2
  | .g2Snapshot counter => placeField 0 0x4#4 ||| placeField 4 counter
  | .g2Batch counter slots =>
    placeField 0 0x2#4 ||| placeField 4 counter ||| placeSlot 0 slots[0] ||| placeSlot 1 slots[1] |||
      placeSlot 2 slots[2] ||| placeSlot 3 slots[3] ||| placeSlot 4 slots[4] ||| placeSlot 5 slots[5] |||
      placeSlot 6 slots[6]
  | .g2Orient raw vel => placeField 0 0x1#4 ||| placeQuat 4 raw ||| placeVel 68 vel
  | .g2Unknown tag => placeField 0 tag

/-- The 20-byte payload of a packet. -/
def Packet.payload (p : Packet) : List Byte := payloadOf p.bits

/-- The generation whose decoder a packet kind belongs to (30_encoding.md R83). -/
def Packet.generation : Packet → Generation
  | .g4Move _ _ => .gen4
  | .g4Orient _ _ => .gen4
  | .g4Unknown _ => .gen4
  | .g3Dropped _ _ _ => .gen3
  | .g3MoveA _ _ => .gen3
  | .g3MoveB _ _ => .gen3
  | .g3Unknown _ _ _ => .gen3
  | .g2Snapshot _ => .gen2
  | .g2Batch _ _ => .gen2
  | .g2Orient _ _ => .gen2
  | .g2Unknown _ => .gen2

/-- `DECODE` of a payload: `0x10 | LEN << 8` (30_encoding.md R85). -/
def decodeCommand (payload : List Byte) : CommandRecord where
  word := 0x10#32 ||| (BitVec.ofNat 8 payload.length).setWidth 32 <<< 8
  block := .payload payload

/-- The command record of an instruction (30_encoding.md R85); a packet is the operand of a `DECODE`. -/
def encode : Instr → CommandRecord
  | .nop => { word := 0x00000000#32, block := .none }
  | .reset => { word := 0x00000001#32, block := .none }
  | .setgen g => { word := 0x02#32 ||| g.setWidth 32 <<< 8, block := .none }
  | .decode payload => decodeCommand payload
  | .apply face mod => { word := 0x20#32 ||| face.setWidth 32 <<< 8 ||| mod.setWidth 32 <<< 11, block := .none }
  | .recon reported => { word := 0x00000030#32, block := .state reported }
  | .orient raw => { word := 0x00000040#32, block := .quaternion raw }
  | .g4Move dir onehot => decodeCommand (Packet.g4Move dir onehot).payload
  | .g4Orient raw vel => decodeCommand (Packet.g4Orient raw vel).payload
  | .g4Unknown tag => decodeCommand (Packet.g4Unknown tag).payload
  | .g3Dropped magic tag b2 => decodeCommand (Packet.g3Dropped magic tag b2).payload
  | .g3MoveA dir onehot => decodeCommand (Packet.g3MoveA dir onehot).payload
  | .g3MoveB dir onehot => decodeCommand (Packet.g3MoveB dir onehot).payload
  | .g3Unknown magic tag b2 => decodeCommand (Packet.g3Unknown magic tag b2).payload
  | .g2Snapshot counter => decodeCommand (Packet.g2Snapshot counter).payload
  | .g2Batch counter slots => decodeCommand (Packet.g2Batch counter slots).payload
  | .g2Orient raw vel => decodeCommand (Packet.g2Orient raw vel).payload
  | .g2Unknown tag => decodeCommand (Packet.g2Unknown tag).payload

/-! ### Words as the opcode table numbers them -/

/-- The operand block of zeros that a command word asks for. -/
def zeroBlock (w : CmdWord) : OperandBlock :=
  if opcodeField w = 0x10#8 then .payload (List.replicate (lenField w).toNat 0)
  else if opcodeField w = 0x30#8 then .state CubeState.zero
  else if opcodeField w = 0x40#8 then .quaternion { w := 0, x := 0, y := 0, z := 0 }
  else .none

/-- The first bytes given, the rest of a 20-byte payload 0. -/
def paddedPayload (first : List Byte) : List Byte := first ++ List.replicate (20 - first.length) 0

/-- What a word of the table stands for (log 8): 32 bits are a command word with an operand block of zeros; fewer are
the first payload bytes "as one big-endian value", and the rows of that size say for which generation. -/
inductive TableWord where
  | command (r : CommandRecord)
  | packet (g : Generation) (P : List Byte)
deriving DecidableEq, Repr

/-- Three bytes are the Gen3 rows. Two bytes are G3.MOVE.A (0x5501), G3.MOVE.B's fixed bits (0x0100, `P[0]` being 0),
and otherwise a Gen4 tag and the byte after it. One byte is the Gen4 row it matches exactly, and otherwise Gen2's. -/
def tableWord (nbits w : Nat) : Option TableWord :=
  if nbits = 32 then
    some (.command { word := BitVec.ofNat 32 w, block := zeroBlock (BitVec.ofNat 32 w) })
  else if nbits = 24 then
    some (.packet .gen3 (paddedPayload [BitVec.ofNat 8 (w / 65536), BitVec.ofNat 8 (w / 256), BitVec.ofNat 8 w]))
  else if nbits = 16 then
    if w = 0x0100 then some (.packet .gen3 (paddedPayload [0x00, 0x01, 0x00]))
    else if w = 0x5501 then some (.packet .gen3 (paddedPayload [0x55, 0x01]))
    else some (.packet .gen4 (paddedPayload [BitVec.ofNat 8 (w / 256), BitVec.ofNat 8 w]))
  else if nbits = 8 then
    if w = 0x01 ∨ w = 0xEC then some (.packet .gen4 (paddedPayload [BitVec.ofNat 8 w]))
    else some (.packet .gen2 (paddedPayload [BitVec.ofNat 8 w]))
  else none

/-- The instruction the decoder reads from a table word; none where it refuses. -/
def decodeTableWord (nbits w : Nat) : Option Instr :=
  match tableWord nbits w with
  | none => none
  | some (.command r) => (decodeRecord r).toOption
  | some (.packet g P) => (decodePacket g P).map Packet.toInstr

end Sys2Proof
end

