-- ==== Sys2Proof/Machine/State.lean ====
section
/-! DEFINITION. The state of the protocol block: exactly the registers of spec/10_state.md R20, and the command
records the host has lined up. -/

namespace Sys2Proof.Machine

/-- `RES_KIND`: the kind of the event a command emitted (10_state.md R27, R29). -/
inductive EventKind where
  | none | move | moveBatch | orient | facelets | reconWarn | unknown
deriving DecidableEq, Repr

/-- `RESULT`, the result record (10_state.md R26). Numerators are two's-complement words of their widths (log 20). -/
structure Result where
  /-- `RES_STATUS`, laid out by R28. -/
  status : BitVec 32
  /-- `RES_KIND`. -/
  kind : EventKind
  /-- `RES_N`. -/
  n : BitVec 3
  /-- `RES_MV[0..6]`, oldest first. -/
  mv : Vector MoveCode 7
  /-- `RES_TAG`. -/
  tag : Byte
  /-- `RES_QRAW[0..3]`. -/
  qraw : Quat16
  /-- `RES_QABS[0..3]`. -/
  qabs : Quat16
  /-- `RES_QREL[0..3]`. -/
  qrel : Quat33
  /-- `RES_VEL[0..2]`. -/
  vel : Velocity
  /-- `RES_EXP`. -/
  expState : CubeState
  /-- `RES_ACT`. -/
  actState : CubeState
deriving DecidableEq, Repr

/-- The empty result: every field 0, `RES_KIND = NONE` (10_state.md R26). -/
def Result.empty : Result where
  status := 0
  kind := .none
  n := 0
  mv := #v[0, 0, 0, 0, 0, 0, 0]
  tag := 0
  qraw := { w := 0, x := 0, y := 0, z := 0 }
  qabs := { w := 0, x := 0, y := 0, z := 0 }
  qrel := { w := 0, x := 0, y := 0, z := 0 }
  vel := #v[0, 0, 0]
  expState := CubeState.zero
  actState := CubeState.zero

/-- The registers of 10_state.md R20, and the host's lined-up records. -/
structure State where
  /-- `GEN` (R21). -/
  gen : Generation
  /-- `TRK_SEEDED` (R22). -/
  trkSeeded : Bool
  /-- `TRK_LAST` (R22). -/
  trkLast : Byte
  /-- `CP`, `CO`, `EP`, `EO` (R23). -/
  cube : CubeState
  /-- `QPREV` (R25). -/
  qprev : Quat16
  /-- `QCUR` (R25). -/
  qcur : Quat16
  /-- `RESULT` (R26). -/
  result : Result
  /-- The records the host presents, next first. The model's own field, no register of the block (log 4). -/
  pending : List CommandRecord
deriving DecidableEq, Repr

/-- No command faults: "no command ends any other way" than with a status code (60_exceptions.md R200, log 18). -/
inductive Fault
deriving DecidableEq, Repr

/-- Why the model gives no step. -/
inductive Refusal where
  /-- An instruction without a meaning yet. Raised by no arm of this model. Safe. -/
  | notModelled (mnemonic : String)
  /-- Raised by a step on a DECODE record whose `LEN` differs from its byte count: "a model refuses it (no step)"
  (30_encoding.md R79). Safe. -/
  | recordLengthMismatch
  /-- Raised by a step on a record whose operand block is not of the kind its opcode fixes, which is no command record
  (30_encoding.md R70, R80, log 6). Safe. -/
  | operandBlockKind
deriving DecidableEq, Repr

/-- The identity quaternion as numerators: (32767, 0, 0, 0) (10_state.md R32). -/
def identityQuat : Quat16 := { w := 32767, x := 0, y := 0, z := 0 }

/-- Right after power-on reset (10_state.md R32, 70_reset_and_hazards.md R220), with no record lined up (log 4). -/
def State.reset : State where
  gen := .none
  trkSeeded := false
  trkLast := 0
  cube := CubeState.solved
  qprev := identityQuat
  qcur := identityQuat
  result := Result.empty
  pending := []

end Sys2Proof.Machine
end

