-- ==== Sys2Proof/Machine/Flags.lean ====
section
/-! DEFINITION. Status codes (spec/60_exceptions.md R201), the layout of RES_STATUS (spec/10_state.md R28) and the codes
of RES_KIND and GEN (R29, R21). -/

namespace Sys2Proof.Machine

/-- The status codes (60_exceptions.md R201). -/
inductive StatusCode where
  | ok | warnNoNew | unseeded
  | malformedLength | malformedOnehot | droppedFrame
  | illegalCmd | badFace | badModifier | badGen | genLocked | noGen
  | stateInvalid
deriving DecidableEq, Repr

/-- The value of a status code (60_exceptions.md R201). -/
def StatusCode.code : StatusCode → BitVec 8
  | .ok => 0x00
  | .warnNoNew => 0x01
  | .unseeded => 0x02
  | .malformedLength => 0x10
  | .malformedOnehot => 0x11
  | .droppedFrame => 0x12
  | .illegalCmd => 0x20
  | .badFace => 0x21
  | .badModifier => 0x22
  | .badGen => 0x23
  | .genLocked => 0x24
  | .noGen => 0x25
  | .stateInvalid => 0x30

/-- `RES_STATUS`: `DELTA` in [23:16], `SKIP` in [10:8], `CODE` in [7:0], the reserved bits 0 (10_state.md R28). -/
def statusWord (c : StatusCode) (skip : BitVec 3) (delta : BitVec 8) : BitVec 32 :=
  c.code.setWidth 32 ||| skip.setWidth 32 <<< 8 ||| delta.setWidth 32 <<< 16

/-- `RES_STATUS.CODE`. -/
def Result.code (r : Result) : BitVec 8 := r.status.extractLsb' 0 8

/-- `RES_STATUS.SKIP`. -/
def Result.skip (r : Result) : BitVec 3 := r.status.extractLsb' 8 3

/-- `RES_STATUS.DELTA`. -/
def Result.delta (r : Result) : BitVec 8 := r.status.extractLsb' 16 8

/-- The reserved bits [15:11] and [31:24] of `RES_STATUS` (10_state.md R28). -/
def Result.reservedBits (r : Result) : BitVec 13 := r.status.extractLsb' 24 8 ++ r.status.extractLsb' 11 5

/-- The code of `RES_KIND` the host reads (10_state.md R29). -/
def EventKind.code : EventKind → BitVec 3
  | .none => 0
  | .move => 1
  | .moveBatch => 2
  | .orient => 3
  | .facelets => 4
  | .reconWarn => 5
  | .unknown => 6

end Sys2Proof.Machine

/-- The value of `GEN` the host reads (10_state.md R21). -/
def Sys2Proof.Generation.code : Sys2Proof.Generation → BitVec 3
  | .none => 0
  | .gen2 => 2
  | .gen3 => 3
  | .gen4 => 4
end

