-- ==== Sys2Proof/Machine/Operands.lean ====
section
/-! DEFINITION. Operand forms: the codes of faces, modifiers and moves (spec/30_encoding.md R76, R77), generation
operands (R78), one-hot fields (spec/41_decode_common.md R111 to R114), quaternion components (spec/45_orientation.md
R160) and the checks of a reported state (spec/46_reconciliation.md R171). -/

namespace Sys2Proof.Machine

/-! ### Faces, modifiers, moves, generations -/

/-- The code of a face, in the order "URFDLB" (30_encoding.md R76). -/
def faceCode : Face → BitVec 3
  | .u => 0
  | .r => 1
  | .f => 2
  | .d => 3
  | .l => 4
  | .b => 5

/-- The face a code names; codes above 5 name none (30_encoding.md R76). It takes any number, since a Gen2 slot's face
field uses the same codes in four bits (44_decode_gen2.md R145). -/
def faceOfCode : Nat → Option Face
  | 0 => some .u
  | 1 => some .r
  | 2 => some .f
  | 3 => some .d
  | 4 => some .l
  | 5 => some .b
  | _ => none

/-- The code of a modifier (30_encoding.md R77). -/
def modifierCode : Modifier → BitVec 2
  | .cw => 0
  | .ccw => 1
  | .half => 2

/-- The modifier a code names; code 3 names none (30_encoding.md R77). -/
def modifierOfCode (v : BitVec 2) : Option Modifier :=
  if v = 0#2 then some .cw else if v = 1#2 then some .ccw else if v = 2#2 then some .half else none

/-- A move code: `face | (modifier << 3)` (10_state.md R26). -/
def moveCode (face : Face) (mod : Modifier) : MoveCode := modifierCode mod ++ faceCode face

/-- The quarter turns a modifier stands for: CW 1, HALF 2, CCW 3 (40_cube_state.md R102). -/
def quarterTurns : Modifier → Nat
  | .cw => 1
  | .half => 2
  | .ccw => 3

/-- The generation a `SETGEN` operand names; 0, 1, 5, 6, 7 name none (30_encoding.md R78). -/
def generationOfCode (g : BitVec 3) : Option Generation :=
  if g = 2#3 then some .gen2 else if g = 3#3 then some .gen3 else if g = 4#3 then some .gen4 else none

/-! ### One-hot move fields -/

/-- The number of bits set in a one-hot field. -/
def popcount (v : BitVec 6) : Nat := ((List.range 6).filter fun i => v.getLsbD i).length

/-- The index of the one set bit, 0 = least significant; none unless exactly one is set (41_decode_common.md R113, R114). -/
def oneHotIndex (v : BitVec 6) : Option (Fin 6) :=
  if popcount v = 1 then (List.finRange 6).find? fun k => v.getLsbD k.val else none

/-- The letter of "BRDFUL" at an index (41_decode_common.md R114). -/
def letterBRDFUL (k : Fin 6) : Face := #v[Face.b, Face.r, Face.d, Face.f, Face.u, Face.l][k]

/-- The face a one-hot position selects through a remap table (41_decode_common.md R114). -/
def remappedFace (remap : Fin 6 → Fin 6) (k : Fin 6) : Face := letterBRDFUL (remap k)

/-- `DirToMod(DIR)` for a value of the parameter `DIR3_IS_CCW` (41_decode_common.md R112). -/
def dirToMod (dir3IsCcw : Bool) (dir : BitVec 2) : Modifier :=
  if dir = 1#2 then .ccw else if dir = 3#2 ∧ dir3IsCcw = true then .ccw else .cw

/-- The modifier of a Gen2 slot's direction bit (44_decode_gen2.md R145). -/
def slotModifier (dir : BitVec 1) : Modifier := if dir = 1#1 then .ccw else .cw

/-- The move of a Gen2 slot; none for a corrupted face value, 6 to 15 (44_decode_gen2.md R145, R146). -/
def slotMove (s : Slot) : Option (Face × Modifier) :=
  match faceOfCode s.face.toNat with
  | some face => some (face, slotModifier s.dir)
  | none => none

/-! ### Quaternions -/

/-- `SM16(raw)`: sign in bit 15, magnitude in bits 14 to 0 (45_orientation.md R160). -/
def sm16 (raw : BitVec 16) : Int :=
  let m : Int := (raw.extractLsb' 0 15).toNat
  if raw.getLsbD 15 then -m else m

/-- `c ⊗ p`, the Hamilton product (45_orientation.md R162). -/
def hamilton (c p : Quat Int) : Quat Int where
  w := c.w * p.w - c.x * p.x - c.y * p.y - c.z * p.z
  x := c.w * p.x + c.x * p.w + c.y * p.z - c.z * p.y
  y := c.w * p.y - c.x * p.z + c.y * p.w + c.z * p.x
  z := c.w * p.z + c.x * p.y - c.y * p.x + c.z * p.w

/-- `conjugate(p)` (45_orientation.md R163). -/
def conjugate (p : Quat Int) : Quat Int where
  w := p.w
  x := -p.x
  y := -p.y
  z := -p.z

/-- `RelQ(c, q) = c ⊗ conjugate(q)` (45_orientation.md R163). -/
def relQ (c q : Quat Int) : Quat Int := hamilton c (conjugate q)

/-- The numerators a 16-bit quaternion register holds. -/
def numerators (q : Quat16) : Quat Int := q.map BitVec.toInt

/-! ### The checks of a reported state -/

/-- Each of 0..n-1 appears exactly once. -/
def eachOnce (n : Nat) (xs : List Nat) : Bool := (List.range n).all fun v => xs.count v == 1

/-- VS1: `CP_IN` is a bijection on 0..7. -/
def vs1 (c : CubeState) : Bool := eachOnce 8 (c.cp.toList.map BitVec.toNat)

/-- VS2: every `CO_IN[i]` is in 0..2. -/
def vs2 (c : CubeState) : Bool := coInRange c

/-- VS3: `EP_IN` is a bijection on 0..11. -/
def vs3 (c : CubeState) : Bool := eachOnce 12 (c.ep.toList.map BitVec.toNat)

/-- VS4: `sum(CO_IN) mod 3 = 0`. -/
def vs4 (c : CubeState) : Bool := (c.co.toList.map BitVec.toNat).sum % 3 == 0

/-- VS5: `sum(EO_IN) mod 2 = 0`. -/
def vs5 (c : CubeState) : Bool := (c.eo.toList.map BitVec.toNat).sum % 2 == 0

/-- `ValidState(IN)` (46_reconciliation.md R171), which is also the invariant of the CubeState (10_state.md R24). -/
def validState (c : CubeState) : Bool := vs1 c && vs2 c && vs3 c && vs4 c && vs5 c

end Sys2Proof.Machine
end

