-- ==== Sys2Proof/Machine/Ops.lean ====
section
/-! DEFINITION. The shared operations: raising a status and completing a command (spec/60_exceptions.md R200, R203),
events (spec/10_state.md R27), moves on the cube (spec/40_cube_state.md R102, R106), the move packets of Gen3 and Gen4
(spec/41_decode_common.md R111), the Gen2 batch loop (spec/44_decode_gen2.md R143) and the orientation update
(spec/45_orientation.md R161). -/

namespace Sys2Proof.Machine

/-! ### Ending a command -/

/-- `raise Status(code)`: every register but RESULT keeps its value, and RESULT is the empty result with CODE
(60_exceptions.md R203). The block's one exception operation; there is no return from it (R207). -/
def raiseStatus (c : StatusCode) (s : State) : State :=
  { s with result := { Result.empty with status := statusWord c 0 0 } }

/-- `RES_STATUS.CODE <- OK` with no event: the empty result (10_state.md R26, R27). -/
def completeOk (s : State) : State :=
  { s with result := { Result.empty with status := statusWord .ok 0 0 } }

/-- `EmitUnknown(tag)` (41_decode_common.md R116). -/
def emitUnknown (tag : Byte) (s : State) : State :=
  { s with result := { Result.empty with status := statusWord .ok 0 0, kind := .unknown, tag := tag } }

/-- A record that is no instruction: an illegal word raises ILLEGAL_CMD (30_encoding.md R74, R75); to a record that is
not well formed the model gives no step (R79, log 6). -/
def rejectRecord (e : DecodeError) (s : State) : Host.Outcome State Fault Refusal :=
  match e with
  | .unassignedOpcode => .next (raiseStatus .illegalCmd s)
  | .reservedBits => .next (raiseStatus .illegalCmd s)
  | .payloadLength => .refused .recordLengthMismatch
  | .operandKind => .refused .operandBlockKind

/-! ### Moves -/

/-- `ApplyMove(f, m)` for given tables (40_cube_state.md R102). -/
def applyMove (M : MoveTables) (face : Face) (mod : Modifier) (c : CubeState) : CubeState :=
  turnTimes (M.table face) (quarterTurns mod) c

/-- `DecodeOneHotMove(DIR, ONEHOT)` (41_decode_common.md R111): the shared body of the Gen3 and Gen4 move packets. -/
def decodeOneHotMove (dir : BitVec 2) (onehot : BitVec 6) (s : State) : State :=
  match oneHotIndex onehot with
  | none => raiseStatus .malformedOnehot s
  | some k =>
    let face := remappedFace Config.faceRemap k
    let mod := dirToMod Config.dir3IsCcw dir
    { s with
      cube := applyMove Config.moveTables face mod s.cube
      result := { Result.empty with
        status := statusWord .ok 0 0
        kind := .move
        n := 1
        mv := #v[moveCode face mod, 0, 0, 0, 0, 0, 0] } }

/-! ### The Gen2 tracker and batch -/

/-- `delta = (COUNTER - TRK_LAST) mod 256` (44_decode_gen2.md R144). -/
def counterDelta (counter last : Byte) : BitVec 8 := counter - last

/-- `pending = min(delta, 7)` (44_decode_gen2.md R144). -/
def pendingCount (delta : BitVec 8) : Nat := min delta.toNat Config.batchCapacity

/-- What the loop over the slots of a batch carries (44_decode_gen2.md R143). -/
structure BatchLoop where
  cube : CubeState
  mv : Vector MoveCode 7
  n : Nat
  skip : Nat
deriving DecidableEq, Repr

/-- One turn of the loop (44_decode_gen2.md R143, R145, R146). -/
def batchSlot (M : MoveTables) (slot : Slot) (a : BatchLoop) : BatchLoop :=
  match slotMove slot with
  | none => { a with skip := a.skip + 1 }
  | some (face, mod) =>
    { a with
      cube := applyMove M face mod a.cube
      mv := a.mv.setIfInBounds a.n (moveCode face mod)
      n := a.n + 1 }

/-- The slots in the order they are read: `pending-1` down to 0 (44_decode_gen2.md R145). -/
def readOrder (slots : Vector Slot 7) (pending : Nat) : List Slot := (slots.toList.take pending).reverse

/-- The loop of 44_decode_gen2.md R143. -/
def batchLoop (M : MoveTables) (read : List Slot) (a : BatchLoop) : BatchLoop :=
  read.foldl (fun a slot => batchSlot M slot a) a

/-- A seeded Gen2 batch (44_decode_gen2.md R143 after its first line). -/
def seededBatch (counter : Byte) (slots : Vector Slot 7) (s : State) : State :=
  let delta := counterDelta counter s.trkLast
  let pending := pendingCount delta
  if pending = 0 then
    { s with
      trkLast := counter
      result := { Result.empty with status := statusWord .warnNoNew 0 delta } }
  else
    let a := batchLoop Config.moveTables (readOrder slots pending)
      { cube := s.cube, mv := Result.empty.mv, n := 0, skip := 0 }
    { s with
      trkLast := counter
      cube := a.cube
      result := { Result.empty with
        status := statusWord .ok (BitVec.ofNat 3 a.skip) delta
        kind := .moveBatch
        n := BitVec.ofNat 3 a.n
        mv := a.mv } }

/-- A Gen2 snapshot for a value of `RESEED_ON_SNAPSHOT` (44_decode_gen2.md R142). -/
def snapshot (reseed : Bool) (counter : Byte) (s : State) : State :=
  let emitted := { s with result := { Result.empty with status := statusWord .ok 0 0, kind := .facelets } }
  if s.trkSeeded = false ∨ reseed = true then { emitted with trkSeeded := true, trkLast := counter } else emitted

/-! ### Orientation -/

/-- `OrientUpdate(RQ)` with the event ORIENT and the velocities of the sample (45_orientation.md R161, R165;
42_decode_gen4.md R122; 44_decode_gen2.md R149). The relative quaternion is over `QCUR` before the update. -/
def orientUpdate (raw : Quat16) (vel : Velocity) (s : State) : State :=
  let q := raw.map sm16
  let rel := relQ q (numerators s.qcur)
  let cur : Quat16 := q.map (BitVec.ofInt 16)
  { s with
    qprev := s.qcur
    qcur := cur
    result := { Result.empty with
      status := statusWord .ok 0 0
      kind := .orient
      qraw := raw
      qabs := cur
      qrel := rel.map (BitVec.ofInt 33)
      vel := vel } }

end Sys2Proof.Machine
end

