-- ==== Sys2Proof/Machine/Control.lean ====
section
/-! DEFINITION. The control commands NOP, RESET and SETGEN (spec/47_control.md). Reserved bits were judged by the
decoder (spec/30_encoding.md R74). -/

namespace Sys2Proof.Machine

/-- `NOP` (R180): RESULT becomes the empty result with CODE = OK. -/
def execNop (s : State) : Host.Outcome State Fault Refusal := .next (completeOk s)

/-- `RESET` (R181): every register to its reset value. The host's lined-up records are no register and stay. -/
def execReset (s : State) : Host.Outcome State Fault Refusal :=
  .next (completeOk { State.reset with pending := s.pending })

/-- `SETGEN g` (R182). -/
def execSetgen (g : BitVec 3) (s : State) : Host.Outcome State Fault Refusal :=
  match generationOfCode g with
  | none => .next (raiseStatus .badGen s)
  | some gen =>
    if s.gen ≠ .none then .next (raiseStatus .genLocked s)
    else .next (completeOk { s with gen := gen })

end Sys2Proof.Machine
end

