-- ==== Sys2Proof/Machine/Cube.lean ====
section
/-! DEFINITION. The permutation simulator's command APPLY (spec/40_cube_state.md R101). -/

namespace Sys2Proof.Machine

/-- `APPLY face, mod` (R101): the face is checked before the modifier (60_exceptions.md R205). -/
def execApply (face : BitVec 3) (mod : BitVec 2) (s : State) : Host.Outcome State Fault Refusal :=
  match faceOfCode face.toNat with
  | none => .next (raiseStatus .badFace s)
  | some named =>
    match modifierOfCode mod with
    | none => .next (raiseStatus .badModifier s)
    | some m => .next (completeOk { s with cube := applyMove Config.moveTables named m s.cube })

end Sys2Proof.Machine
end

