-- ==== Sys2Proof/Machine/Gen2.lean ====
section
/-! DEFINITION. The Gen2 packet kinds and the MoveCounterTracker (spec/44_decode_gen2.md), the routines DECODE enters
when GEN = 2. -/

namespace Sys2Proof.Machine

/-- Gen2 snapshot packet (R142). -/
def execG2Snapshot (counter : Byte) (s : State) : Host.Outcome State Fault Refusal :=
  .next (snapshot Config.reseedOnSnapshot counter s)

/-- Gen2 move-batch packet (R143 to R148). -/
def execG2Batch (counter : Byte) (slots : Vector Slot 7) (s : State) : Host.Outcome State Fault Refusal :=
  if s.trkSeeded = false then .next (raiseStatus .unseeded s) else .next (seededBatch counter slots s)

/-- Gen2 orientation packet (R149). -/
def execG2Orient (raw : Quat16) (vel : Velocity) (s : State) : Host.Outcome State Fault Refusal :=
  .next (orientUpdate raw vel s)

/-- Any other Gen2 tag (R150): four bits, zero-extended to eight (41_decode_common.md R116). -/
def execG2Unknown (tag : BitVec 4) (s : State) : Host.Outcome State Fault Refusal :=
  .next (emitUnknown (tag.setWidth 8) s)

end Sys2Proof.Machine
end

