-- ==== Sys2Proof/Machine/Gen3.lean ====
section
/-! DEFINITION. The Gen3 packet kinds (spec/43_decode_gen3.md), the routines DECODE enters when GEN = 3. -/

namespace Sys2Proof.Machine

/-- A frame that fails both checks is dropped (R130). -/
def execG3Dropped (_magic _tag _b2 : Byte) (s : State) : Host.Outcome State Fault Refusal :=
  .next (raiseStatus .droppedFrame s)

/-- Gen3 move packet, frame valid by byte 0 (R131). -/
def execG3MoveA (dir : BitVec 2) (onehot : BitVec 6) (s : State) : Host.Outcome State Fault Refusal :=
  .next (decodeOneHotMove dir onehot s)

/-- Gen3 move packet, frame valid by byte 2 (R131). -/
def execG3MoveB (dir : BitVec 2) (onehot : BitVec 6) (s : State) : Host.Outcome State Fault Refusal :=
  .next (decodeOneHotMove dir onehot s)

/-- A valid frame that is no move (R132): its tag is byte 1. -/
def execG3Unknown (_magic tag _b2 : Byte) (s : State) : Host.Outcome State Fault Refusal :=
  .next (emitUnknown tag s)

end Sys2Proof.Machine
end

