-- ==== Sys2Proof/Machine/Gen4.lean ====
section
/-! DEFINITION. The Gen4 packet kinds (spec/42_decode_gen4.md), the routines DECODE enters when GEN = 4. -/

namespace Sys2Proof.Machine

/-- Gen4 move packet (R121). -/
def execG4Move (dir : BitVec 2) (onehot : BitVec 6) (s : State) : Host.Outcome State Fault Refusal :=
  .next (decodeOneHotMove dir onehot s)

/-- Gen4 orientation packet (R122). -/
def execG4Orient (raw : Quat16) (vel : Velocity) (s : State) : Host.Outcome State Fault Refusal :=
  .next (orientUpdate raw vel s)

/-- Any other Gen4 tag (R123). -/
def execG4Unknown (tag : Byte) (s : State) : Host.Outcome State Fault Refusal :=
  .next (emitUnknown tag s)

end Sys2Proof.Machine
end

