-- ==== Sys2Proof/Machine/DecodeCommand.lean ====
section
/-! DEFINITION. The command DECODE (spec/41_decode_common.md R110): it hands a payload to the decoder of the selected
generation. -/

namespace Sys2Proof.Machine

/-- The routine of a packet kind. -/
def runPacket (p : Packet) (s : State) : Host.Outcome State Fault Refusal :=
  match p with
  | .g4Move dir onehot => execG4Move dir onehot s
  | .g4Orient raw vel => execG4Orient raw vel s
  | .g4Unknown tag => execG4Unknown tag s
  | .g3Dropped magic tag b2 => execG3Dropped magic tag b2 s
  | .g3MoveA dir onehot => execG3MoveA dir onehot s
  | .g3MoveB dir onehot => execG3MoveB dir onehot s
  | .g3Unknown magic tag b2 => execG3Unknown magic tag b2 s
  | .g2Snapshot counter => execG2Snapshot counter s
  | .g2Batch counter slots => execG2Batch counter slots s
  | .g2Orient raw vel => execG2Orient raw vel s
  | .g2Unknown tag => execG2Unknown tag s

/-- `DECODE LEN, P` (R110): NO_GEN is checked before MALFORMED_LENGTH (60_exceptions.md R205). -/
def execDecode (payload : List Byte) (s : State) : Host.Outcome State Fault Refusal :=
  match decodePacket s.gen payload with
  | none => .next (raiseStatus .noGen s)
  | some p =>
    if payload.length ∈ Config.payloadLengths then runPacket p s
    else .next (raiseStatus .malformedLength s)

end Sys2Proof.Machine
end

