-- ==== Sys2Proof/Machine/Orientation.lean ====
section
/-! DEFINITION. The orientation engine's command ORIENT (spec/45_orientation.md R165). -/

namespace Sys2Proof.Machine

/-- `ORIENT qw, qx, qy, qz` (R165): `RES_VEL` stays 0. -/
def execOrient (raw : Quat16) (s : State) : Host.Outcome State Fault Refusal :=
  .next (orientUpdate raw #v[0, 0, 0] s)

end Sys2Proof.Machine
end

