-- ==== Sys2Proof/Machine/Recon.lean ====
section
/-! DEFINITION. State reconciliation, RECON (spec/46_reconciliation.md). -/

namespace Sys2Proof.Machine

/-- `RECON cp, co, ep, eo` (R170 to R173): a valid reported state is adopted, with a warning where it differs. -/
def execRecon (reported : CubeState) (s : State) : Host.Outcome State Fault Refusal :=
  if validState reported = false then .next (raiseStatus .stateInvalid s)
  else if s.cube = reported then .next (completeOk { s with cube := reported })
  else
    .next { s with
      cube := reported
      result := { Result.empty with
        status := statusWord .ok 0 0
        kind := .reconWarn
        expState := s.cube
        actState := reported } }

end Sys2Proof.Machine
end

