-- ==== Sys2Proof/Machine/Dispatch.lean ====
section
/-! DEFINITION. One arm per instruction, each a direct call of its meaning. -/

namespace Sys2Proof.Machine

def exec (i : Instr) (s : State) : Host.Outcome State Fault Refusal :=
  match i with
  -- commands
  | .nop => Sys2Proof.Machine.execNop s
  | .reset => Sys2Proof.Machine.execReset s
  | .setgen g => Sys2Proof.Machine.execSetgen g s
  | .decode payload => Sys2Proof.Machine.execDecode payload s
  | .apply face mod => Sys2Proof.Machine.execApply face mod s
  | .recon reported => Sys2Proof.Machine.execRecon reported s
  | .orient raw => Sys2Proof.Machine.execOrient raw s
  -- Gen4 packets
  | .g4Move dir onehot => Sys2Proof.Machine.execG4Move dir onehot s
  | .g4Orient raw vel => Sys2Proof.Machine.execG4Orient raw vel s
  | .g4Unknown tag => Sys2Proof.Machine.execG4Unknown tag s
  -- Gen3 packets
  | .g3Dropped magic tag b2 => Sys2Proof.Machine.execG3Dropped magic tag b2 s
  | .g3MoveA dir onehot => Sys2Proof.Machine.execG3MoveA dir onehot s
  | .g3MoveB dir onehot => Sys2Proof.Machine.execG3MoveB dir onehot s
  | .g3Unknown magic tag b2 => Sys2Proof.Machine.execG3Unknown magic tag b2 s
  -- Gen2 packets
  | .g2Snapshot counter => Sys2Proof.Machine.execG2Snapshot counter s
  | .g2Batch counter slots => Sys2Proof.Machine.execG2Batch counter slots s
  | .g2Orient raw vel => Sys2Proof.Machine.execG2Orient raw vel s
  | .g2Unknown tag => Sys2Proof.Machine.execG2Unknown tag s

end Sys2Proof.Machine
end

