-- ==== Sys2Proof/Machine/Step.lean ====
section
/-! DEFINITION. One step: the block performs the next command record the host presents (spec/00_scope.md R6,
spec/20_memory.md R57, R60). -/

namespace Sys2Proof.Machine

/-- One command record is one step. With none presented the block keeps all state (60_exceptions.md R212, log 5). -/
def step (s : State) : Host.Outcome State Fault Refusal :=
  match s.pending with
  | [] => .next s
  | r :: rest =>
    match decodeRecord r with
    | .ok i => exec i { s with pending := rest }
    | .error e => rejectRecord e { s with pending := rest }

/-- The host presents `r` next. -/
def State.present (s : State) (r : CommandRecord) : State := { s with pending := r :: s.pending }

/-- The state whose next step runs the instruction of a table word (log 8): a command word is presented with zeros for
its operand block; a packet is presented as the payload of a DECODE with its generation selected. -/
def State.withFetchWord (s : State) (nbits w : Nat) : State :=
  match tableWord nbits w with
  | none => s
  | some (.command r) => s.present r
  | some (.packet g P) => { s with gen := g }.present (decodeCommand P)

end Sys2Proof.Machine
end

