-- ==== Sys2Proof/Machine/Assembler.lean ====
section
/-! DEFINITION. The assembler (spec/30_encoding.md R85 to R88): a line of text to the command records it stands for,
none where the assembler rejects it. Text is a list of characters. What R85 and R87 leave open: log 13. -/

namespace Sys2Proof.Machine

/-! ### Move tokens and formulas -/

/-- A face letter, upper case (R86). -/
def faceOfLetter (ch : Char) : Option Face :=
  if ch = 'U' then some .u
  else if ch = 'R' then some .r
  else if ch = 'F' then some .f
  else if ch = 'D' then some .d
  else if ch = 'L' then some .l
  else if ch = 'B' then some .b
  else none

/-- What may follow the letter: nothing, `'` or `2`, "and nothing else" (R86). -/
def modifierOfSuffix : List Char → Option Modifier
  | [] => some .cw
  | [ch] => if ch = '\'' then some .ccw else if ch = '2' then some .half else none
  | _ :: _ :: _ => none

/-- A move token (R86). -/
def moveOfToken : List Char → Option (Face × Modifier)
  | [] => none
  | ch :: rest => do
    let face ← faceOfLetter ch
    let mod ← modifierOfSuffix rest
    return (face, mod)

/-- `APPLY` of a move: `0x20 | FACE << 8 | MOD << 11` (R85, R86). -/
def applyOfMove (m : Face × Modifier) : Instr := .apply (faceCode m.1) (modifierCode m.2)

/-- Cut a text at every character of a class; empty pieces are dropped, so several spaces separate like one (R87). An
empty piece at either end of the text is dropped too, the model's choice (log 13). -/
def splitAt (isCut : Char → Bool) : List Char → List (List Char)
  | [] => []
  | ch :: rest =>
    if isCut ch then splitAt isCut rest
    else
      match rest with
      | [] => [[ch]]
      | next :: _ =>
        if isCut next then [ch] :: splitAt isCut rest
        else
          match splitAt isCut rest with
          | [] => [[ch]]
          | piece :: pieces => (ch :: piece) :: pieces

/-- Tokens separated by one or more spaces (R87). R87 speaks only of spaces that separate tokens: that spaces before the
first or after the last token are dropped, that a text of spaces alone has no tokens (inside the quotes of `FORMULA`: the
empty formula), and that no character but the space separates, is the model's choice (log 13). -/
def tokens (text : List Char) : List (List Char) := splitAt (fun ch => ch == ' ') text

/-- Every element converted, or none. -/
def convertAll {α β : Type} (g : α → Option β) : List α → Option (List β)
  | [] => some []
  | a :: as =>
    match g a, convertAll g as with
    | some b, some bs => some (b :: bs)
    | _, _ => none

/-- `FORMULA "<t1> ... <tn>"`: `APPLY t1` to `APPLY tn`; one bad token rejects the whole formula (R87). Spaces at the
ends of the text between the quotes are dropped, and spaces alone are the empty formula, as `tokens` has it (log 13). -/
def assembleFormula (text : List Char) : Option (List Instr) :=
  (convertAll moveOfToken (tokens text)).map (List.map applyOfMove)

/-! ### Numbers -/

/-- The value of a hexadecimal digit, in either case (log 13). -/
def hexDigit (ch : Char) : Option Nat :=
  let n := ch.toNat
  if 48 ≤ n ∧ n ≤ 57 then some (n - 48)
  else if 65 ≤ n ∧ n ≤ 70 then some (n - 55)
  else if 97 ≤ n ∧ n ≤ 102 then some (n - 87)
  else none

/-- The value of a decimal digit. -/
def decDigit (ch : Char) : Option Nat :=
  let n := ch.toNat
  if 48 ≤ n ∧ n ≤ 57 then some (n - 48) else none

/-- A non-empty numeral in a base, most significant digit first; leading zeros are taken, and no prefix (log 13). -/
def numeral (base : Nat) (digit : Char → Option Nat) (text : List Char) : Option Nat :=
  match text with
  | [] => none
  | _ :: _ => (convertAll digit text).map (List.foldl (fun n d => n * base + d) 0)

/-- A number that fits `w` bits: a lane holds any value its width allows and no other (R80). That the assembler rejects
one that does not fit is the model's choice (log 13). -/
def fits (w n : Nat) : Option (BitVec w) := if n < 2 ^ w then some (BitVec.ofNat w n) else none

/-- A hexadecimal operand of `w` bits. -/
def hexOperand (w : Nat) (text : List Char) : Option (BitVec w) := (numeral 16 hexDigit text).bind (fits w)

/-- A decimal operand of `w` bits. -/
def decOperand (w : Nat) (text : List Char) : Option (BitVec w) := (numeral 10 decDigit text).bind (fits w)

/-- A list of exactly `n` lanes. -/
def lanes {α : Type} (n : Nat) (xs : List α) : Option (Vector α n) :=
  if h : xs.length = n then some ⟨xs.toArray, by simpa using h⟩ else none

/-- Digits without separators, one lane each: `cp`, `co`, `eo` (R85). -/
def digitLanes (w n : Nat) (text : List Char) : Option (Vector (BitVec w) n) :=
  (convertAll (fun ch => (decDigit ch).bind (fits w)) text).bind (lanes n)

/-- Comma-separated decimals, one lane each: `ep` (R85). Twelve numbers must stand in it; empty pieces beside a comma
(two commas in a row, a leading or a trailing one) are dropped, the model's choice where R85 is silent (log 13). -/
def commaLanes (w n : Nat) (text : List Char) : Option (Vector (BitVec w) n) :=
  (convertAll (decOperand w) (splitAt (fun ch => ch == ',') text)).bind (lanes n)

/-- What follows a prefix. -/
def afterPrefix : List Char → List Char → Option (List Char)
  | [], text => some text
  | _ :: _, [] => none
  | p :: ps, ch :: text => if p = ch then afterPrefix ps text else none

/-! ### Lines -/

/-- The text before a comment (R85). -/
def withoutComment (line : List Char) : List Char := line.takeWhile fun ch => ch != ';'

/-- `SETGEN <2|3|4>` (R85). -/
def assembleSetgen (operands : List (List Char)) : Option (List Instr) :=
  match operands with
  | [g] => if g = ['2'] ∨ g = ['3'] ∨ g = ['4'] then (decOperand 3 g).map fun v => [Instr.setgen v] else none
  | _ => none

/-- `DECODE <b0> ...`: 18 to 20 hex bytes (R85). -/
def assembleDecode (operands : List (List Char)) : Option (List Instr) :=
  if 18 ≤ operands.length ∧ operands.length ≤ 20 then
    (convertAll (hexOperand 8) operands).map fun bytes => [Instr.decode bytes]
  else none

/-- `APPLY <move>` (R85). -/
def assembleApply (operands : List (List Char)) : Option (List Instr) :=
  match operands with
  | [t] => (moveOfToken t).map fun m => [applyOfMove m]
  | _ => none

/-- `RECON cp=... co=... ep=... eo=...` (R85). -/
def assembleRecon (operands : List (List Char)) : Option (List Instr) :=
  match operands with
  | [a, b, c, d] => do
    let cp ← (afterPrefix ['c', 'p', '='] a).bind (digitLanes 3 8)
    let co ← (afterPrefix ['c', 'o', '='] b).bind (digitLanes 2 8)
    let ep ← (afterPrefix ['e', 'p', '='] c).bind (commaLanes 4 12)
    let eo ← (afterPrefix ['e', 'o', '='] d).bind (digitLanes 1 12)
    return [Instr.recon { cp := cp, co := co, ep := ep, eo := eo }]
  | _ => none

/-- `ORIENT <qw> <qx> <qy> <qz>`: four 16-bit raw codes, hex (R85). -/
def assembleOrient (operands : List (List Char)) : Option (List Instr) :=
  match operands with
  | [a, b, c, d] => do
    let w ← hexOperand 16 a
    let x ← hexOperand 16 b
    let y ← hexOperand 16 c
    let z ← hexOperand 16 d
    return [Instr.orient { w := w, x := x, y := y, z := z }]
  | _ => none

/-- `FORMULA "..."`: the text between the first quote and the last (R87), with no quote inside; spaces between the
keyword and the first quote and after the last are dropped, the model's choice (log 13). -/
def quotedFormula (text : List Char) : Option (List Instr) :=
  match (text.dropWhile fun ch => ch == ' '), (text.reverse.dropWhile fun ch => ch == ' ') with
  | '"' :: opened, '"' :: _ =>
    match (opened.reverse.dropWhile fun ch => ch == ' ') with
    | '"' :: inside => if inside.contains '"' then none else assembleFormula inside.reverse
    | _ => none
  | _, _ => none

/-- One line of assembly (R85, R87): the instructions it stands for, none where it is rejected. An empty line or a
comment stands for nothing, a keyword is upper case, and spaces around the line are dropped: the model's choice (log 13). -/
def assembleInstrs (line : List Char) : Option (List Instr) :=
  let code := withoutComment line
  match afterPrefix ['F', 'O', 'R', 'M', 'U', 'L', 'A', ' '] (code.dropWhile fun ch => ch == ' ') with
  | some text => quotedFormula text
  | none =>
    match tokens code with
    | [] => some []
    | name :: operands =>
      if name = ['N', 'O', 'P'] then (if operands = [] then some [Instr.nop] else none)
      else if name = ['R', 'E', 'S', 'E', 'T'] then (if operands = [] then some [Instr.reset] else none)
      else if name = ['S', 'E', 'T', 'G', 'E', 'N'] then assembleSetgen operands
      else if name = ['D', 'E', 'C', 'O', 'D', 'E'] then assembleDecode operands
      else if name = ['A', 'P', 'P', 'L', 'Y'] then assembleApply operands
      else if name = ['R', 'E', 'C', 'O', 'N'] then assembleRecon operands
      else if name = ['O', 'R', 'I', 'E', 'N', 'T'] then assembleOrient operands
      else none

/-- The command records of a line (R85). -/
def assemble (line : List Char) : Option (List CommandRecord) := (assembleInstrs line).map (List.map encode)

end Sys2Proof.Machine
end

