-- ==== Sys2Proof/Safety.lean ====
section
/-! DEFINITION. What the spec says holds in every reachable state, and what a run shows (spec/10_state.md R22 to R29,
spec/70_reset_and_hazards.md R226). -/

namespace Sys2Proof.Machine

/-- A numerator of 10_state.md R25: `-32767 ≤ n ≤ 32767`. -/
def inNumeratorRange (v : BitVec 16) : Prop := -32767 ≤ v.toInt ∧ v.toInt ≤ 32767

/-- Every component of a quaternion register is a numerator (10_state.md R25). -/
def quatInRange (q : Quat16) : Prop :=
  inNumeratorRange q.w ∧ inNumeratorRange q.x ∧ inNumeratorRange q.y ∧ inNumeratorRange q.z

/-- The values of the thirteen status codes (60_exceptions.md R201). -/
def statusCodes : List (BitVec 8) :=
  [0x00, 0x01, 0x02, 0x10, 0x11, 0x12, 0x20, 0x21, 0x22, 0x23, 0x24, 0x25, 0x30]

/-- What the result record holds whichever command wrote it (10_state.md R26 to R29, 93_implementation_defined.md I12). -/
structure ResultInv (r : Result) : Prop where
  /-- CODE is a code of 60_exceptions.md R201. -/
  code : r.code ∈ statusCodes
  /-- The reserved bits of RES_STATUS read 0 (R28). -/
  reserved : r.reservedBits = 0
  /-- Entries of RES_MV from RES_N on read 0 (I12). -/
  unusedMoves : ∀ i (h : i < 7), r.n.toNat ≤ i → r.mv[i] = 0
  /-- RES_N is 1 for a move (R27). -/
  oneMove : r.kind = .move → r.n = 1
  /-- RES_N is 0 for an event that is neither a move nor a batch, whose RES_N is any number up to 7 (R27). -/
  noMoves : r.kind ≠ .move → r.kind ≠ .moveBatch → r.n = 0
  /-- Decoded moves are never half turns: modifier code 0 or 1 (41_decode_common.md R115). -/
  noHalf : ∀ i (h : i < 7), (r.mv[i]).extractLsb' 3 2 = 0#2 ∨ (r.mv[i]).extractLsb' 3 2 = 1#2
  /-- Only an Unknown packet writes RES_TAG (R27). -/
  tag : r.kind ≠ .unknown → r.tag = 0
  /-- Only an orientation sample writes the quaternion and velocity fields (R27). -/
  orient : r.kind ≠ .orient → r.qraw = Result.empty.qraw ∧ r.qabs = Result.empty.qabs ∧
    r.qrel = Result.empty.qrel ∧ r.vel = Result.empty.vel
  /-- `RES_QABS` holds numerators (R26, R25). -/
  qabs : quatInRange r.qabs
  /-- Only a reconciliation warning writes the two states (R27). -/
  recon : r.kind ≠ .reconWarn → r.expState = CubeState.zero ∧ r.actState = CubeState.zero
  /-- A warning's two states are valid and differ (46_reconciliation.md R170, R172). -/
  warn : r.kind = .reconWarn → validState r.expState = true ∧ validState r.actState = true ∧ r.expState ≠ r.actState

/-- What holds in every reachable state. -/
structure Inv (s : State) : Prop where
  /-- 10_state.md R24. -/
  cube : validState s.cube = true
  /-- 10_state.md R22: while Unseeded, `TRK_LAST` holds 0. -/
  tracker : s.trkSeeded = false → s.trkLast = 0
  /-- 10_state.md R25. -/
  qprev : quatInRange s.qprev
  /-- 10_state.md R25. -/
  qcur : quatInRange s.qcur
  /-- 10_state.md R26 to R29. -/
  result : ResultInv s.result

/-- A record the host may present: the word is illegal, or the record decodes (30_encoding.md R74, R75, R79). -/
def presentable (r : CommandRecord) : Prop :=
  decodeRecord r ≠ .error .payloadLength ∧ decodeRecord r ≠ .error .operandKind

/-- The observation of a run: the result record of each of its first `k` steps (70_reset_and_hazards.md R226). -/
def observe : Nat → State → List Result
  | 0, _ => []
  | k + 1, s =>
    match step s with
    | .next t => t.result :: observe k t
    | .fault _ => []
    | .refused _ => []

end Sys2Proof.Machine
end

