-- ==== Sys2Proof/Certificates/Slice0/Obligations.lean ====
section
/-! DEFINITION. The statements for the provers, from the numbered rules of spec/. The small definitions before them say
the spec's own phrases in the model's terms. -/

namespace Sys2Proof.Spec

open Sys2Proof.Machine

/-- The state after a raised status: only RESULT differs, and it is empty but for its status word (60_exceptions.md R203).
The host's lined-up records, no register of the block, stay (log 4). -/
def raised (status : BitVec 32) (s : State) : State := { s with result := { Result.empty with status := status } }

/-- The state after a command that ends OK without an event: RESULT is the empty result (10_state.md R26). The host's
lined-up records stay (log 4). -/
def finished (s : State) : State := { s with result := Result.empty }

/-- What a presented record does to the state it finds: the instruction it decodes to is executed, and a word that decodes
to none raises ILLEGAL_CMD (30_encoding.md R74, R75). -/
def performed (r : CommandRecord) (s t : State) : Prop :=
  match decodeRecord r with
  | .ok i => exec i s = .next t
  | .error _ => t = raised 0x20#32 s

/-- Commands performed one after another. -/
def execAll : List Instr → State → Host.Outcome State Fault Refusal
  | [], s => .next s
  | i :: is, s =>
    match exec i s with
    | .next t => execAll is t
    | .fault e => .fault e
    | .refused e => .refused e

/-- A word of this opcode with a bit set from `lowest` up raises ILLEGAL_CMD (30_encoding.md R74). That it does so whatever
its operand block, also one that makes the record no command record (R70, R79), is the model's reading of the order of
checks (log 6, DEDUCED). -/
def reservedBitsIllegal (opc : BitVec 8) (lowest : Nat) : Prop :=
  ∀ (s : State) (w : CmdWord) (b : OperandBlock), w.extractLsb' 0 8 = opc → w >>> lowest ≠ 0#32 →
    step (s.present { word := w, block := b }) = .next (raised 0x20#32 s)

/-- A component's numerator (45_orientation.md R160), by the number the raw code is. -/
def signMagnitude (raw : BitVec 16) : Int :=
  if raw.toNat < 32768 then (raw.toNat : Int) else -((raw.toNat : Int) - 32768)

/-- The bit at a payload offset: `(P[off div 8] >> (7 - off mod 8)) & 1` (20_memory.md R51). -/
def bitAt (P : List Byte) (off : Nat) : Nat := (P.getD (off / 8) 0).toNat / 2 ^ (7 - off % 8) % 2

/-- The lengths DECODE accepts (41_decode_common.md R110). -/
def acceptedLength (n : Nat) : Prop := n = 18 ∨ n = 19 ∨ n = 20

/-- The face codes the letters of "BRDFUL" stand for (41_decode_common.md R114). -/
def codeBRDFUL (k : Fin 6) : BitVec 3 := #v[5#3, 1#3, 3#3, 2#3, 0#3, 4#3][k]

/-- The face a code names, by the order "URFDLB" (30_encoding.md R76). -/
def faceURFDLB (k : Fin 6) : Face := #v[Face.u, Face.r, Face.f, Face.d, Face.l, Face.b][k]

/-- The command `APPLY` of a move code `face | mod << 3` (10_state.md R26). -/
def applyOfCode (m : MoveCode) : Instr := .apply (m.extractLsb' 0 3) (m.extractLsb' 3 2)

/-- The slots of a batch that are read, oldest first: slot `pending-1` to slot 0 (44_decode_gen2.md R145, R147). -/
def slotsRead (slots : Vector Slot 7) (pending : Nat) : List Slot :=
  ((List.range 7).reverse.filter fun i => decide (i < pending)).map fun i => slots.toList.getD i { face := 0, dir := 0 }

/-- The slots of a batch that hold a move: face values 0 to 5 (44_decode_gen2.md R145, R146). -/
def slotsGood (read : List Slot) : List Slot := read.filter fun slot => decide (slot.face.toNat ≤ 5)

/-- The move code of a slot: its face value, and CCW (1) or CW (0) by its direction bit (44_decode_gen2.md R145). -/
def slotCode (slot : Slot) : MoveCode := 0#1 ++ slot.dir ++ slot.face.extractLsb' 0 3

/-- The status codes each instruction may end with (60_exceptions.md R201), ILLEGAL_CMD being judged before it. -/
def codesOf : Instr → List (BitVec 8)
  | .nop => [0x00]
  | .reset => [0x00]
  | .setgen _ => [0x00, 0x23, 0x24]
  | .decode _ => [0x00, 0x01, 0x02, 0x10, 0x11, 0x12, 0x25]
  | .apply _ _ => [0x00, 0x21, 0x22]
  | .recon _ => [0x00, 0x30]
  | .orient _ => [0x00]
  | .g4Move _ _ => [0x00, 0x11]
  | .g4Orient _ _ => [0x00]
  | .g4Unknown _ => [0x00]
  | .g3Dropped _ _ _ => [0x12]
  | .g3MoveA _ _ => [0x00, 0x11]
  | .g3MoveB _ _ => [0x00, 0x11]
  | .g3Unknown _ _ _ => [0x00]
  | .g2Snapshot _ => [0x00]
  | .g2Batch _ _ => [0x00, 0x01, 0x02]
  | .g2Orient _ _ => [0x00]
  | .g2Unknown _ => [0x00]

/-- The registers at the reset values of 10_state.md R32. -/
def atResetValues (s : State) : Prop :=
  s.gen.code = 0 ∧ s.trkSeeded = false ∧ s.trkLast = 0 ∧
  (∀ i : Fin 8, s.cube.cp[i].toNat = i.val ∧ s.cube.co[i].toNat = 0) ∧
  (∀ j : Fin 12, s.cube.ep[j].toNat = j.val ∧ s.cube.eo[j].toNat = 0) ∧
  numerators s.qprev = { w := 32767, x := 0, y := 0, z := 0 } ∧
  numerators s.qcur = { w := 32767, x := 0, y := 0, z := 0 } ∧
  s.result.status = 0 ∧ s.result.kind.code = 0 ∧ s.result.n = 0 ∧ (∀ i : Fin 7, s.result.mv[i] = 0) ∧
  s.result.tag = 0 ∧ s.result.qraw = { w := 0, x := 0, y := 0, z := 0 } ∧
  s.result.qabs = { w := 0, x := 0, y := 0, z := 0 } ∧ s.result.qrel = { w := 0, x := 0, y := 0, z := 0 } ∧
  (∀ i : Fin 3, s.result.vel[i] = 0) ∧
  (∀ i : Fin 8, s.result.expState.cp[i] = 0 ∧ s.result.expState.co[i] = 0 ∧
    s.result.actState.cp[i] = 0 ∧ s.result.actState.co[i] = 0) ∧
  (∀ j : Fin 12, s.result.expState.ep[j] = 0 ∧ s.result.expState.eo[j] = 0 ∧
    s.result.actState.ep[j] = 0 ∧ s.result.actState.eo[j] = 0)

/-- The spelling of a move token (30_encoding.md R86). -/
def tokenText (m : Face × Modifier) : List Char :=
  (match m.1 with | .u => 'U' | .r => 'R' | .f => 'F' | .d => 'D' | .l => 'L' | .b => 'B') ::
  (match m.2 with | .cw => [] | .ccw => ['\''] | .half => ['2'])

/-- The MoveCounterTracker: `Unseeded`, or `Seeded(c)` (10_state.md R22). -/
def tracker (s : State) : Option Byte := if s.trkSeeded = true then some s.trkLast else none

/-- The transitions of the tracker (44_decode_gen2.md R141); every other instruction leaves it. -/
def trackerAfter : Instr → Option Byte → Option Byte
  | .reset, _ => none
  | .g2Snapshot c, none => some c
  | .g2Batch c _, some _ => some c
  | _, k => k

/-- Words in a row, each but the last followed by one space more than its number. -/
def spaced : List (List Char × Nat) → List Char
  | [] => []
  | [w] => w.1
  | w :: ws => w.1 ++ List.replicate (w.2 + 1) ' ' ++ spaced ws

end Sys2Proof.Spec

section
open Sys2Proof Sys2Proof.Machine Sys2Proof.Spec

/-! ### Reset and control -/

/-- 10_state.md R32: power-on reset and the RESET command leave every register at its reset value. That RESET
leaves the host's lined-up records alone is the model's choice (the model's own field, log 4). -/
def Obligations.ResetGivesEveryRegisterItsResetValue : Prop :=
  atResetValues State.reset ∧
  ∀ s : State, ∃ t, exec .reset s = .next t ∧ atResetValues t ∧ t.pending = s.pending

/-- 47_control.md R181: encoding, reserved bits, effect from any state; two RESETs equal one; the only way to change a
selected GEN. The model's: reserved bits are illegal with any operand block (log 6), and the host's lined-up records
stay (log 4). -/
def Obligations.ResetCommandReturnsEveryRegister : Prop :=
  decodeRecord { word := 0x00000001#32, block := .none } = .ok .reset ∧
  reservedBitsIllegal 0x01#8 8 ∧
  (∀ s : State, exec .reset s = .next { State.reset with pending := s.pending }) ∧
  (∀ s : State, execAll [.reset, .reset] s = exec .reset s) ∧
  ∀ (i : Instr) (s t : State), exec i s = .next t → s.gen ≠ .none → t.gen ≠ s.gen → i = .reset

/-- 47_control.md R180: NOP leaves the empty result and changes nothing else. The model's: reserved bits are illegal with
any operand block (log 6). -/
def Obligations.NopOnlyClearsResult : Prop :=
  decodeRecord { word := 0x00000000#32, block := .none } = .ok .nop ∧
  reservedBitsIllegal 0x00#8 8 ∧
  ∀ s : State, exec .nop s = .next (finished s)

/-- 47_control.md R182: the whole rule, from the encoding to the lock, and DECODE before it. The model's: reserved bits are
illegal with any operand block (log 6). -/
def Obligations.SetgenSelectsOnceThenLocks : Prop :=
  (∀ w : CmdWord, w &&& 0xFFFFF8FF#32 = 0x00000002#32 →
    decodeRecord { word := w, block := .none } = .ok (.setgen (w.extractLsb' 8 3))) ∧
  reservedBitsIllegal 0x02#8 11 ∧
  (∀ (P : List Byte) (s : State), s.gen = .none → exec (.decode P) s = .next (raised 0x25#32 s)) ∧
  ∀ (g : BitVec 3) (s : State),
    (g ≠ 2#3 → g ≠ 3#3 → g ≠ 4#3 → exec (.setgen g) s = .next (raised 0x23#32 s)) ∧
    ((g = 2#3 ∨ g = 3#3 ∨ g = 4#3) → s.gen ≠ .none → exec (.setgen g) s = .next (raised 0x24#32 s)) ∧
    (∀ G : Generation, G ≠ .none → G.code = g → s.gen = .none →
      exec (.setgen g) s = .next (finished { s with gen := G }))

/-- 47_control.md R183: who writes GEN and the tracker. -/
def Obligations.OnlyNamedCommandsWriteGenAndTracker : Prop :=
  ∀ (i : Instr) (s t : State), exec i s = .next t →
    (t.gen ≠ s.gen → i = .reset ∨ ∃ g, i = .setgen g) ∧
    (t.trkSeeded ≠ s.trkSeeded ∨ t.trkLast ≠ s.trkLast →
      i = .reset ∨ (∃ c, i = .g2Snapshot c) ∨ (s.trkSeeded = true ∧ ∃ c slots, i = .g2Batch c slots) ∨
      ∃ P, i = .decode P ∧ s.gen = .gen2 ∧ acceptedLength P.length ∧
        ((P.getD 0 0).toNat / 16 = 4 ∨ ((P.getD 0 0).toNat / 16 = 2 ∧ s.trkSeeded = true)))

/-! ### The step -/

/-- A step runs the decoded instruction on the state the host's next record leaves (00_scope.md R6, 20_memory.md R60).
That the records stand in a list of State is the model's choice (log 4). -/
def Obligations.StepRunsTheDecodedInstruction : Prop :=
  ∀ (s : State) (r : CommandRecord) (i : Instr), decodeRecord r = .ok i → step (s.present r) = exec i s

/-- With no record presented the block keeps all state (60_exceptions.md R212; the idle step is the model's choice, log 5). -/
def Obligations.StepWithNoRecordKeepsAllState : Prop :=
  ∀ s : State, s.pending = [] → step s = .next s

/-- 30_encoding.md R74, R75: a word of no row of the opcode map raises ILLEGAL_CMD and changes no state except RESULT. The
model's: it does so with any operand block, also where R79 refuses a legal word's record (log 6). -/
def Obligations.WordsOfNoRowRaiseIllegalCmd : Prop :=
  ∀ (s : State) (w : CmdWord) (b : OperandBlock),
    w ≠ 0x00000000#32 → w ≠ 0x00000001#32 → w &&& 0xFFFFF8FF#32 ≠ 0x00000002#32 →
    w &&& 0xFFFF00FF#32 ≠ 0x00000010#32 → w &&& 0xFFFFE0FF#32 ≠ 0x00000020#32 →
    w ≠ 0x00000030#32 → w ≠ 0x00000040#32 →
    step (s.present { word := w, block := b }) = .next (raised 0x20#32 s)

/-- 30_encoding.md R79: no step for a record whose LEN is not its byte count; any LEN of a well-formed record decodes. -/
def Obligations.RecordLengthIsCheckedByTheEncoding : Prop :=
  ∀ (s : State) (w : CmdWord) (P : List Byte), w &&& 0xFFFF00FF#32 = 0x00000010#32 →
    (P.length ≠ (w.extractLsb' 8 8).toNat →
      step (s.present { word := w, block := .payload P }) = .refused .recordLengthMismatch) ∧
    (P.length = (w.extractLsb' 8 8).toNat → decodeRecord { word := w, block := .payload P } = .ok (.decode P))

/-- 60_exceptions.md R200: every command ends with a status code of R201, and no other way. The model's: an illegal word
counts as a command with any operand block (log 6), and the host's other records stay (log 4). -/
def Obligations.EveryPresentedCommandEndsWithAStatus : Prop :=
  ∀ (s : State) (r : CommandRecord), presentable r →
    ∃ t, step (s.present r) = .next t ∧ t.result.code ∈ statusCodes ∧ t.pending = s.pending

/-- 70_reset_and_hazards.md R226: a run performs its finite sequence of records in order, one step each, each on the state
the last one left, and ends when the last has completed; its observation is the result record of each command. That the
records stand in a list of State, from which a step takes the first, is the model's choice (log 4); an illegal word is a
command with any operand block (log 6). -/
def Obligations.RunPerformsEveryRecordOnce : Prop :=
  ∀ (rs : List CommandRecord) (s : State), (∀ r ∈ rs, presentable r) →
    ∃ left : Nat → State,
      (∀ k ≤ rs.length, core.run k { s with pending := rs } = .next (left k) ∧ (left k).pending = rs.drop k) ∧
      (∀ k (h : k < rs.length), performed rs[k] { left k with pending := rs.drop (k + 1) } (left (k + 1))) ∧
      ∀ k ≤ rs.length,
        observe k { s with pending := rs } = (List.range k).map fun j => (left (j + 1)).result

/-- 60_exceptions.md R203: a raised status is precise. Codes OK and WARN_NO_NEW are not raised (R204). -/
def Obligations.RaisedStatusLeavesAllOtherRegisters : Prop :=
  (∀ (i : Instr) (s t : State), exec i s = .next t → t.result.code ≠ 0x00#8 → t.result.code ≠ 0x01#8 →
    t = raised (t.result.code.setWidth 32) s) ∧
  (∀ (s t : State) (r : CommandRecord), step (s.present r) = .next t → t.result.code ≠ 0x00#8 →
    t.result.code ≠ 0x01#8 → t = raised (t.result.code.setWidth 32) s)

/-- 60_exceptions.md R201, its columns of codes and commands. -/
def Obligations.StatusCodesByInstruction : Prop :=
  ∀ (i : Instr) (s t : State), exec i s = .next t → t.result.code ∈ codesOf i

/-- 10_state.md R28: the layout of RES_STATUS; DELTA and SKIP are 0 but for the event of a Gen2 batch. -/
def Obligations.StatusWordLayout : Prop :=
  ∀ (i : Instr) (s t : State), exec i s = .next t →
    t.result.status.toNat = t.result.code.toNat + 256 * t.result.skip.toNat + 65536 * t.result.delta.toNat ∧
    (t.result.kind ≠ .moveBatch → t.result.skip = 0 ∧ t.result.delta = 0) ∧
    (t.result.delta ≠ 0 → s.trkSeeded = true ∧ t.result.delta.toNat = (t.trkLast.toNat + 256 - s.trkLast.toNat) % 256)

/-- 10_state.md R31: the result record is written, never read. -/
def Obligations.NoCommandReadsTheResult : Prop :=
  ∀ (i : Instr) (s : State) (r : Result), exec i { s with result := r } = exec i s

/-- Only DECODE and SETGEN read GEN (41_decode_common.md R119, 40_cube_state.md R101, 45_orientation.md R165,
46_reconciliation.md R170); RESET overwrites it. -/
def Obligations.OtherCommandsDoNotReadGen : Prop :=
  ∀ (i : Instr) (s t : State) (g : Generation), (∀ P, i ≠ .decode P) → (∀ x, i ≠ .setgen x) → i ≠ .reset →
    exec i s = .next t → exec i { s with gen := g } = .next { t with gen := g }

/-! ### The payload and the encodings -/

/-- 20_memory.md R51, R52: a field is the number its bits spell, the first bit most significant. -/
def Obligations.FieldIsTheNumberItsBitsSpell : Prop :=
  ∀ (P : List Byte) (off w : Nat), off + w ≤ 8 * P.length →
    (field P off w).toNat = ∑ j ∈ Finset.range w, bitAt P (off + j) * 2 ^ (w - 1 - j)

/-- 20_memory.md R54: no decoder reads past offset 91. -/
def Obligations.OffsetsFrom92AreNeverRead : Prop :=
  ∀ (s : State) (P Q : List Byte), acceptedLength P.length → acceptedLength Q.length →
    (∀ off < 92, bitAt P off = bitAt Q off) → exec (.decode P) s = exec (.decode Q) s

/-- Decoding the record of a well-formed command gives the command back. -/
def Obligations.CommandsDecodeFromTheirEncoding : Prop :=
  ∀ i : Instr, i.wellFormed = true → (∀ p : Packet, i ≠ p.toInstr) → decodeRecord (encode i) = .ok i

/-- Each record has one meaning: what decodes is well formed and encodes to the very record. That a record whose block is
not of its opcode's kind decodes to nothing is the model's choice (log 6). -/
def Obligations.DecodedRecordsEncodeBack : Prop :=
  ∀ (r : CommandRecord) (i : Instr), decodeRecord r = .ok i → i.wellFormed = true ∧ encode i = r

/-- Decoding the payload of a well-formed packet gives the packet back, with every field at every value; its record is
a DECODE of 20 bytes. Which payload is encoded, its 20 bytes and its unread bits at 0, is the model's choice (log 19). -/
def Obligations.PacketsDecodeFromTheirPayload : Prop :=
  ∀ p : Packet, p.toInstr.wellFormed = true →
    decodePacket p.generation p.payload = some p ∧ p.payload.length = 20 ∧
    decodeRecord (encode p.toInstr) = .ok (.decode p.payload)

/-- Words written out from 30_encoding.md R72, R73, R85 and payloads from R81 decode to what they stand for. -/
def Obligations.SampleWordsDecode : Prop :=
  decodeRecord { word := 0b00000000000000000000010000000010#32, block := .none } = .ok (.setgen 4#3) ∧
  decodeRecord { word := 0b00000000000000000000100100100000#32, block := .none } = .ok (.apply 1#3 1#2) ∧
  decodeRecord { word := 0b00000000000000000001010100100000#32, block := .none } = .ok (.apply 5#3 2#2) ∧
  decodeRecord { word := 0b00000000000000000000000100000000#32, block := .none } = .error .reservedBits ∧
  decodeRecord { word := 0b00000000000000000000000000000011#32, block := .none } = .error .unassignedOpcode ∧
  decodeGen4 ([0x01, 0, 0, 0, 0, 0, 0, 0, 0b01000100] ++ List.replicate 11 0) = .g4Move 1#2 0b000100#6 ∧
  decodeGen3 ([0x55, 0x01, 0x08, 0, 0, 0, 0, 0, 0, 0b00000001] ++ List.replicate 10 0) = .g3MoveA 0#2 0b000001#6 ∧
  decodeGen3 ([0x00, 0x01, 0x00, 0, 0, 0, 0, 0, 0, 0b01000001] ++ List.replicate 10 0) = .g3MoveB 1#2 0b000001#6 ∧
  decodeGen2 ([0x4F, 0xA0] ++ List.replicate 18 0) = .g2Snapshot 250#8

/-! ### DECODE -/

/-- 41_decode_common.md R110: encoding, the order of the checks, and the decoder of the selected generation. The model's:
reserved bits are illegal with any operand block, also one whose length is not LEN (log 6). -/
def Obligations.DecodeChecksThenRunsTheSelectedDecoder : Prop :=
  (∀ (w : CmdWord) (P : List Byte), w &&& 0xFFFF00FF#32 = 0x00000010#32 → P.length = (w.extractLsb' 8 8).toNat →
    decodeRecord { word := w, block := .payload P } = .ok (.decode P)) ∧
  reservedBitsIllegal 0x10#8 16 ∧
  (∀ (s : State) (P : List Byte), s.gen = .none → exec (.decode P) s = .next (raised 0x25#32 s)) ∧
  (∀ (s : State) (P : List Byte), s.gen ≠ .none → ¬ acceptedLength P.length →
    exec (.decode P) s = .next (raised 0x10#32 s)) ∧
  (∀ (s : State) (P : List Byte), s.gen ≠ .none → acceptedLength P.length →
    ∃ p t, decodePacket s.gen P = some p ∧ p.generation = s.gen ∧ exec (.decode P) s = .next t ∧
      exec p.toInstr s = .next t)

/-- 42_decode_gen4.md R120, with the fields of 30_encoding.md R81 read from their bytes. -/
def Obligations.Gen4PayloadIsReadByItsTag : Prop :=
  ∀ (s : State) (P : List Byte), s.gen = .gen4 → acceptedLength P.length →
    exec (.decode P) s =
      if P.getD 0 0 = 0x01#8 then
        exec (.g4Move ((P.getD 8 0).extractLsb' 6 2) ((P.getD 8 0).extractLsb' 0 6)) s
      else if P.getD 0 0 = 0xEC#8 then
        exec (.g4Orient
          { w := P.getD 2 0 ++ P.getD 3 0, x := P.getD 4 0 ++ P.getD 5 0,
            y := P.getD 6 0 ++ P.getD 7 0, z := P.getD 8 0 ++ P.getD 9 0 }
          #v[(P.getD 10 0).extractLsb' 4 4, (P.getD 10 0).extractLsb' 0 4, (P.getD 11 0).extractLsb' 4 4]) s
      else exec (.g4Unknown (P.getD 0 0)) s

/-- 43_decode_gen3.md R130, with the fields of 30_encoding.md R81 read from their bytes. -/
def Obligations.Gen3FrameIsCheckedThenReadByItsTag : Prop :=
  (∀ (s : State) (P : List Byte), s.gen = .gen3 → acceptedLength P.length →
    exec (.decode P) s =
      if P.getD 0 0 ≠ 0x55#8 ∧ P.getD 2 0 ≠ 0x00#8 then .next (raised 0x12#32 s)
      else if P.getD 1 0 = 0x01#8 then
        if P.getD 0 0 = 0x55#8 then
          exec (.g3MoveA ((P.getD 9 0).extractLsb' 6 2) ((P.getD 9 0).extractLsb' 0 6)) s
        else exec (.g3MoveB ((P.getD 9 0).extractLsb' 6 2) ((P.getD 9 0).extractLsb' 0 6)) s
      else exec (.g3Unknown (P.getD 0 0) (P.getD 1 0) (P.getD 2 0)) s) ∧
  ∀ (magic tag b2 : Byte) (s : State), exec (.g3Dropped magic tag b2) s = .next (raised 0x12#32 s)

/-- 44_decode_gen2.md R140, with the fields of 30_encoding.md R81 and the slot bits of R82. -/
def Obligations.Gen2PayloadIsReadByItsTag : Prop :=
  ∀ (s : State) (P : List Byte), s.gen = .gen2 → acceptedLength P.length →
    let b := fun k => P.getD k 0
    exec (.decode P) s =
      if (b 0).extractLsb' 4 4 = 0x4#4 then
        exec (.g2Snapshot ((b 0).extractLsb' 0 4 ++ (b 1).extractLsb' 4 4)) s
      else if (b 0).extractLsb' 4 4 = 0x2#4 then
        exec (.g2Batch ((b 0).extractLsb' 0 4 ++ (b 1).extractLsb' 4 4)
          #v[{ face := (b 1).extractLsb' 0 4, dir := (b 2).extractLsb' 7 1 },
             { face := (b 2).extractLsb' 3 4, dir := (b 2).extractLsb' 2 1 },
             { face := (b 2).extractLsb' 0 2 ++ (b 3).extractLsb' 6 2, dir := (b 3).extractLsb' 5 1 },
             { face := (b 3).extractLsb' 1 4, dir := (b 3).extractLsb' 0 1 },
             { face := (b 4).extractLsb' 4 4, dir := (b 4).extractLsb' 3 1 },
             { face := (b 4).extractLsb' 0 3 ++ (b 5).extractLsb' 7 1, dir := (b 5).extractLsb' 6 1 },
             { face := (b 5).extractLsb' 2 4, dir := (b 5).extractLsb' 1 1 }]) s
      else if (b 0).extractLsb' 4 4 = 0x1#4 then
        exec (.g2Orient
          { w := (b 0).extractLsb' 0 4 ++ b 1 ++ (b 2).extractLsb' 4 4,
            x := (b 2).extractLsb' 0 4 ++ b 3 ++ (b 4).extractLsb' 4 4,
            y := (b 4).extractLsb' 0 4 ++ b 5 ++ (b 6).extractLsb' 4 4,
            z := (b 6).extractLsb' 0 4 ++ b 7 ++ (b 8).extractLsb' 4 4 }
          #v[(b 8).extractLsb' 0 4, (b 9).extractLsb' 4 4, (b 9).extractLsb' 0 4]) s
      else exec (.g2Unknown ((b 0).extractLsb' 4 4)) s

/-- 41_decode_common.md R116: the Unknown event of each generation. -/
def Obligations.UnknownPacketsReportTheirTag : Prop :=
  ∀ (s : State) (tag magic b2 : Byte) (tag2 : BitVec 4),
    exec (.g4Unknown tag) s = .next { s with result := { Result.empty with kind := .unknown, tag := tag } } ∧
    exec (.g3Unknown magic tag b2) s = .next { s with result := { Result.empty with kind := .unknown, tag := tag } } ∧
    exec (.g2Unknown tag2) s = .next { s with result := { Result.empty with kind := .unknown, tag := 0#4 ++ tag2 } }

/-- 41_decode_common.md R118: an all-zero payload of 20 bytes is Unknown with tag 0 for every generation. -/
def Obligations.AllZeroPayloadIsUnknown : Prop :=
  ∀ s : State, s.gen ≠ .none →
    exec (.decode (List.replicate 20 0)) s = .next { s with result := { Result.empty with kind := .unknown } }

/-- 41_decode_common.md R117: DECODE is total and stays within 10_state.md R24. -/
def Obligations.DecodeIsTotalAndKeepsTheCubeValid : Prop :=
  ∀ (s : State) (P : List Byte), validState s.cube = true →
    ∃ t, exec (.decode P) s = .next t ∧ validState t.cube = true

/-- 41_decode_common.md R111, R113: the move packets of Gen4 and Gen3. The move is applied as APPLY would (R106). -/
def Obligations.OneHotMovePacketsEmitAndApplyOneMove : Prop :=
  ∀ (dir : BitVec 2) (onehot : BitVec 6) (s : State),
    ∀ i ∈ [Instr.g4Move dir onehot, Instr.g3MoveA dir onehot, Instr.g3MoveB dir onehot],
      ((∀ k < 6, onehot.toNat ≠ 2 ^ k) → exec i s = .next (raised 0x11#32 s)) ∧
      (∀ k : Fin 6, onehot.toNat = 2 ^ k.val →
        let face := codeBRDFUL (Config.faceRemap k)
        let mod := if dir = 1#2 then 1#2 else 0#2
        ∃ u, exec (.apply face mod) s = .next u ∧ u.result.code = 0 ∧
          exec i s = .next { s with
            cube := u.cube
            result := { Result.empty with kind := .move, n := 1, mv := #v[mod ++ face, 0, 0, 0, 0, 0, 0] } })

/-- 41_decode_common.md R115: no decoder emits a half turn. -/
def Obligations.NoDecoderEmitsAHalfTurn : Prop :=
  ∀ (i : Instr) (s t : State), exec i s = .next t → ∀ k (h : k < 7), k < t.result.n.toNat →
    (t.result.mv[k]).extractLsb' 3 2 = 0#2 ∨ (t.result.mv[k]).extractLsb' 3 2 = 1#2

/-- 40_cube_state.md R106: a decoder's step changes the cube by the moves it emits, oldest first, as APPLY would, and by
nothing else. -/
def Obligations.EmittedMovesAreAppliedOldestFirst : Prop :=
  ∀ (i : Instr) (s t : State), ((∃ P, i = .decode P) ∨ ∃ p : Packet, i = p.toInstr) → exec i s = .next t →
    ∃ u, execAll ((t.result.mv.toList.take t.result.n.toNat).map applyOfCode) s = .next u ∧ t.cube = u.cube

/-! ### Gen2 -/

/-- 44_decode_gen2.md R141: the tracker's transitions and no others; DECODE moves it as the packet it holds. -/
def Obligations.TrackerFollowsItsTransitionTable : Prop :=
  (∀ (i : Instr) (s t : State), (∀ P, i ≠ .decode P) → exec i s = .next t →
    tracker t = trackerAfter i (tracker s)) ∧
  (∀ (P : List Byte) (s t : State), exec (.decode P) s = .next t → ¬ acceptedLength P.length → tracker t = tracker s) ∧
  (∀ (P : List Byte) (s t : State), exec (.decode P) s = .next t → s.gen = .none → tracker t = tracker s) ∧
  (∀ (P : List Byte) (s t : State) (p : Packet), exec (.decode P) s = .next t → acceptedLength P.length →
    decodePacket s.gen P = some p → tracker t = trackerAfter p.toInstr (tracker s))

/-- 44_decode_gen2.md R142: a snapshot seeds an Unseeded tracker and leaves a Seeded one. -/
def Obligations.SnapshotSeedsOnlyTheUnseededTracker : Prop :=
  ∀ (c : Byte) (s : State),
    (s.trkSeeded = false → exec (.g2Snapshot c) s =
      .next { s with trkSeeded := true, trkLast := c, result := { Result.empty with kind := .facelets } }) ∧
    (s.trkSeeded = true → exec (.g2Snapshot c) s =
      .next { s with result := { Result.empty with kind := .facelets } })

/-- 44_decode_gen2.md R143 to R148: the whole move batch. -/
def Obligations.MoveBatchDecodesThePendingSlots : Prop :=
  ∀ (c : Byte) (slots : Vector Slot 7) (s : State),
    let delta := (c.toNat + 256 - s.trkLast.toNat) % 256
    let pending := min delta 7
    let read := slotsRead slots pending
    let codes := (slotsGood read).map slotCode
    (s.trkSeeded = false → exec (.g2Batch c slots) s = .next (raised 0x02#32 s)) ∧
    (s.trkSeeded = true → delta = 0 → exec (.g2Batch c slots) s = .next (raised 0x01#32 s)) ∧
    (s.trkSeeded = true → delta ≠ 0 →
      ∃ u mv, execAll (codes.map applyOfCode) s = .next u ∧
        mv.toList = codes ++ List.replicate (7 - codes.length) 0 ∧
        exec (.g2Batch c slots) s = .next { s with
          trkLast := c
          cube := u.cube
          result := { Result.empty with
            status := BitVec.ofNat 32 (256 * (read.length - codes.length) + 65536 * delta)
            kind := .moveBatch
            n := BitVec.ofNat 3 codes.length
            mv := mv } })

/-- 70_reset_and_hazards.md R228: a stale batch reads seven slots as new moves; a repeated batch reads none. -/
def Obligations.StaleBatchIsDecodedRepeatedBatchIsNot : Prop :=
  ∀ (slots : Vector Slot 7) (s : State), s.trkSeeded = true →
    (∃ t, exec (.g2Batch (s.trkLast - 1) slots) s = .next t ∧ t.result.delta = 255 ∧
      t.result.n.toNat + t.result.skip.toNat = 7 ∧ t.trkLast = s.trkLast - 1) ∧
    exec (.g2Batch s.trkLast slots) s = .next (raised 0x01#32 s)

/-! ### The cube -/

/-- 40_cube_state.md R100: one quarter turn, by APPLY with modifier CW. -/
def Obligations.ApplyClockwiseIsOneQuarterTurn : Prop :=
  ∀ (k : Fin 6) (s : State),
    let T := Config.moveTables.table (faceURFDLB k)
    ∃ t, exec (.apply (BitVec.ofNat 3 k.val) 0#2) s = .next t ∧ t = finished { s with cube := t.cube } ∧
      (∀ i : Fin 8, t.cube.cp[i] = s.cube.cp[T.cp i] ∧
        t.cube.co[i].toNat = (s.cube.co[T.cp i].toNat + (T.co i).val) % 3) ∧
      (∀ j : Fin 12, t.cube.ep[j] = s.cube.ep[T.ep j] ∧
        t.cube.eo[j].toNat = (s.cube.eo[T.ep j].toNat + (T.eo j).val) % 2)

/-- 40_cube_state.md R101, R102: encoding, checks in order, HALF and CCW as two and three quarter turns, GEN not read. The
model's: reserved bits are illegal with any operand block (log 6). -/
def Obligations.ApplyChecksThenTurns : Prop :=
  (∀ w : CmdWord, w &&& 0xFFFFE0FF#32 = 0x00000020#32 →
    decodeRecord { word := w, block := .none } = .ok (.apply (w.extractLsb' 8 3) (w.extractLsb' 11 2))) ∧
  reservedBitsIllegal 0x20#8 13 ∧
  (∀ (f : BitVec 3) (m : BitVec 2) (s : State) (g : Generation), ∃ t, exec (.apply f m) s = .next t ∧
    exec (.apply f m) { s with gen := g } = .next { t with gen := g }) ∧
  ∀ (f : BitVec 3) (s : State),
    (∀ m : BitVec 2, 5 < f.toNat → exec (.apply f m) s = .next (raised 0x21#32 s)) ∧
    (f.toNat ≤ 5 → exec (.apply f 3#2) s = .next (raised 0x22#32 s)) ∧
    (f.toNat ≤ 5 →
      (∃ t, exec (.apply f 0#2) s = .next t ∧ t = finished { s with cube := t.cube }) ∧
      exec (.apply f 2#2) s = execAll [.apply f 0#2, .apply f 0#2] s ∧
      exec (.apply f 1#2) s = execAll [.apply f 0#2, .apply f 0#2, .apply f 0#2] s)

/-- 40_cube_state.md R107: the laws of moves, from every state whose corner orientations are in 0..2 (R23). -/
def Obligations.MovesOfOneFaceCancel : Prop :=
  ∀ (f : BitVec 3) (s : State), f.toNat ≤ 5 → (∀ i : Fin 8, s.cube.co[i].toNat ≤ 2) →
    execAll [.apply f 0#2, .apply f 0#2, .apply f 0#2, .apply f 0#2] s = .next (finished s) ∧
    execAll [.apply f 2#2, .apply f 2#2] s = .next (finished s) ∧
    execAll [.apply f 1#2, .apply f 1#2, .apply f 1#2, .apply f 1#2] s = .next (finished s) ∧
    execAll [.apply f 0#2, .apply f 1#2] s = .next (finished s) ∧
    execAll [.apply f 1#2, .apply f 0#2] s = .next (finished s) ∧
    exec (.apply f 2#2) s = execAll [.apply f 0#2, .apply f 0#2] s ∧
    exec (.apply f 2#2) s = execAll [.apply f 1#2, .apply f 1#2] s ∧
    exec (.apply f 1#2) s = execAll [.apply f 0#2, .apply f 0#2, .apply f 0#2] s ∧
    ∀ (ms : List (BitVec 3 × BitVec 2)) (t : State), execAll (ms.map fun m => .apply m.1 m.2) s = .next t →
      (∑ i : Fin 8, t.cube.co[i].toNat) % 3 = (∑ i : Fin 8, s.cube.co[i].toNat) % 3 ∧
      (∑ j : Fin 12, t.cube.eo[j].toNat) % 2 = (∑ j : Fin 12, s.cube.eo[j].toNat) % 2

/-- 40_cube_state.md R105: every move keeps the invariant of 10_state.md R24, and the orientation sums of any state. -/
def Obligations.MovesKeepTheInvariantAndTheSums : Prop :=
  ∀ (f : BitVec 3) (m : BitVec 2) (s t : State), exec (.apply f m) s = .next t →
    (validState s.cube = true → validState t.cube = true) ∧
    (∑ i : Fin 8, t.cube.co[i].toNat) % 3 = (∑ i : Fin 8, s.cube.co[i].toNat) % 3 ∧
    (∑ j : Fin 12, t.cube.eo[j].toNat) % 2 = (∑ j : Fin 12, s.cube.eo[j].toNat) % 2

/-- 40_cube_state.md R108: the cube changes only by moves, by RECON's adoption and by RESET. -/
def Obligations.OnlyMovesReconAndResetWriteTheCube : Prop :=
  ∀ (i : Instr) (s t : State), exec i s = .next t → t.cube ≠ s.cube →
    (i = .reset ∧ t.cube = CubeState.solved) ∨
    (∃ reported, i = .recon reported ∧ t.cube = reported) ∨
    (((∃ f m, i = .apply f m) ∨ (∃ P, i = .decode P) ∨ ∃ p : Packet, i = p.toInstr) ∧
      ∃ (codes : List MoveCode) (u : State), execAll (codes.map applyOfCode) s = .next u ∧ u.result.code = 0 ∧
        t.cube = u.cube)

/-! ### Reconciliation -/

/-- 46_reconciliation.md R171: the checks VS1 to VS5. -/
def Obligations.ValidStateIsTheFiveChecks : Prop :=
  ∀ c : CubeState, validState c = true ↔
    ((∀ v < 8, ∃! i : Fin 8, c.cp[i].toNat = v) ∧
     (∀ i : Fin 8, c.co[i].toNat ≤ 2) ∧
     ((∀ j : Fin 12, c.ep[j].toNat ≤ 11) ∧ ∀ v < 12, ∃! j : Fin 12, c.ep[j].toNat = v) ∧
     (∑ i : Fin 8, c.co[i].toNat) % 3 = 0 ∧
     (∑ j : Fin 12, c.eo[j].toNat) % 2 = 0)

/-- 46_reconciliation.md R170, R172, R173: encoding, rejection, match, mismatch and adoption. The model's: reserved bits
are illegal with any operand block (log 6). -/
def Obligations.ReconWarnsOnMismatchAndAdopts : Prop :=
  (∀ c : CubeState, decodeRecord { word := 0x00000030#32, block := .state c } = .ok (.recon c)) ∧
  reservedBitsIllegal 0x30#8 8 ∧
  ∀ (c : CubeState) (s : State),
    (validState c = false → exec (.recon c) s = .next (raised 0x30#32 s)) ∧
    (validState c = true → s.cube = c → exec (.recon c) s = .next (finished s)) ∧
    (validState c = true → s.cube ≠ c → exec (.recon c) s =
      .next { s with
        cube := c
        result := { Result.empty with kind := .reconWarn, expState := s.cube, actState := c } })

/-! ### Orientation -/

/-- 45_orientation.md R160, R161, R163, R165; 42_decode_gen4.md R122; 44_decode_gen2.md R149: an orientation sample.
The numbers written fit their registers in every state. -/
def Obligations.OrientationSampleIsExact : Prop :=
  ∀ (raw : Quat16) (v : Velocity) (s : State),
    ∀ iv ∈ [(Instr.orient raw, (#v[0, 0, 0] : Velocity)), (Instr.g4Orient raw v, v), (Instr.g2Orient raw v, v)],
      ∃ t, exec iv.1 s = .next t ∧
        t = { s with qprev := s.qcur, qcur := t.qcur, result := { Result.empty with
          kind := .orient, qraw := raw, qabs := t.qcur, qrel := t.result.qrel, vel := iv.2 } } ∧
        let c := numerators t.qcur
        let q := numerators s.qcur
        c = { w := signMagnitude raw.w, x := signMagnitude raw.x, y := signMagnitude raw.y, z := signMagnitude raw.z } ∧
        t.result.qrel.w.toInt = c.w * q.w + c.x * q.x + c.y * q.y + c.z * q.z ∧
        t.result.qrel.x.toInt = -c.w * q.x + c.x * q.w - c.y * q.z + c.z * q.y ∧
        t.result.qrel.y.toInt = -c.w * q.y + c.x * q.z + c.y * q.w - c.z * q.x ∧
        t.result.qrel.z.toInt = -c.w * q.z - c.x * q.y + c.y * q.x + c.z * q.w

/-- 45_orientation.md R165: its encoding and reserved bits. The model's: reserved bits are illegal with any operand block
(log 6). -/
def Obligations.OrientIsEncodedWithoutFields : Prop :=
  (∀ raw : Quat16, decodeRecord { word := 0x00000040#32, block := .quaternion raw } = .ok (.orient raw)) ∧
  reservedBitsIllegal 0x40#8 8

/-- 45_orientation.md R164: the bound of the relative numerators, whichever instruction wrote the result, and that it is
reached. -/
def Obligations.RelativeNumeratorsAreBounded : Prop :=
  (∀ (i : Instr) (s t : State), quatInRange s.qcur → exec i s = .next t →
    |t.result.qrel.w.toInt| ≤ 4294705156 ∧ |t.result.qrel.x.toInt| ≤ 4294705156 ∧
    |t.result.qrel.y.toInt| ≤ 4294705156 ∧ |t.result.qrel.z.toInt| ≤ 4294705156) ∧
  (∀ (v : Velocity) (s : State), s.qcur = { w := 32767, x := 32767, y := 32767, z := 32767 } →
    let raw : Quat16 := { w := 0x7FFF, x := 0x7FFF, y := 0x7FFF, z := 0x7FFF }
    ∀ i ∈ [Instr.orient raw, Instr.g4Orient raw v, Instr.g2Orient raw v],
      ∃ t, exec i s = .next t ∧ t.result.qrel.w.toInt = 4294705156)

/-- 45_orientation.md R165: two equal samples give the squared length and no rotation. -/
def Obligations.EqualSamplesGiveNoRotation : Prop :=
  ∀ (raw : Quat16) (s : State), ∃ t, execAll [.orient raw, .orient raw] s = .next t ∧
    t.result.qrel.w.toInt = signMagnitude raw.w ^ 2 + signMagnitude raw.x ^ 2 + signMagnitude raw.y ^ 2 +
      signMagnitude raw.z ^ 2 ∧
    t.result.qrel.x.toInt = 0 ∧ t.result.qrel.y.toInt = 0 ∧ t.result.qrel.z.toInt = 0

/-- 10_state.md R25: only the orientation update and RESET write QPREV and QCUR. -/
def Obligations.OnlyOrientationAndResetWriteTheQuaternions : Prop :=
  ∀ (i : Instr) (s t : State), exec i s = .next t → t.qprev ≠ s.qprev ∨ t.qcur ≠ s.qcur →
    i = .reset ∨ (t.qprev = s.qcur ∧ t.result.kind = .orient ∧
      ((∃ raw, i = .orient raw) ∨ (∃ raw v, i = .g4Orient raw v) ∨ (∃ raw v, i = .g2Orient raw v) ∨
        ∃ P, i = .decode P ∧ (s.gen = .gen4 ∨ s.gen = .gen2)))

/-! ### Invariants -/

/-- The invariant holds after power-on reset (10_state.md R24, R25, R22, R26). -/
def Obligations.ResetStateHasTheInvariant : Prop := Inv State.reset

/-- 10_state.md R24: the cube invariant holds after reset and is kept by every step, from every state that has it. -/
def Obligations.StepKeepsTheCubeInvariant : Prop :=
  validState State.reset.cube = true ∧
  ∀ s t : State, validState s.cube = true → step s = .next t → validState t.cube = true

/-- 10_state.md R22, R24, R25, R26 to R29: every step keeps the whole invariant. -/
def Obligations.StepKeepsTheInvariant : Prop := ∀ s t : State, Inv s → step s = .next t → Inv t

/-! ### The assembler -/

/-- 30_encoding.md R86: the move tokens are exactly a face letter with one of the three suffixes, and assemble to the
codes of R76 and R77. -/
def Obligations.MoveTokensAreLetterAndSuffix : Prop :=
  (∀ (tok : List Char) (m : Face × Modifier), moveOfToken tok = some m ↔ tok = tokenText m) ∧
  ∀ m : Face × Modifier, ∃ (k : Fin 6) (j : Fin 3), faceURFDLB k = m.1 ∧
    (j = 0 ↔ m.2 = .cw) ∧ (j = 1 ↔ m.2 = .ccw) ∧
    (encode (applyOfMove m)).word = BitVec.ofNat 32 (0x20 + k.val * 256 + j.val * 2048)

/-- 30_encoding.md R87: a formula is its tokens' APPLY commands in order, separated by one or more spaces; with no tokens
it is nothing; one bad token rejects all of it. -/
def Obligations.FormulaIsItsTokensInOrder : Prop :=
  assembleFormula [] = some [] ∧
  (∀ ms : List ((Face × Modifier) × Nat),
    assembleFormula (spaced (ms.map fun m => (tokenText m.1, m.2))) = some (ms.map fun m => applyOfMove m.1)) ∧
  (∀ words : List (List Char × Nat), (∀ w ∈ words, w.1 ≠ [] ∧ ' ' ∉ w.1) → (∃ w ∈ words, moveOfToken w.1 = none) →
    assembleFormula (spaced words) = none)

end
end

