-- ==== Sys2Proof/Laws/Assembler.lean ====
section
/-! SUPPORT. How a text falls into tokens, and when the conversion of a list succeeds (spec/30_encoding.md R87). -/

namespace Sys2Proof.Machine

theorem tokens_space (text : List Char) : tokens (' ' :: text) = tokens text := by simp [tokens, splitAt]

/-- Leading spaces do not matter. -/
theorem tokens_spaces (n : Nat) (text : List Char) : tokens (List.replicate n ' ' ++ text) = tokens text := by
  induction n with
  | zero => rfl
  | succ n ih => rw [List.replicate_succ, List.cons_append, tokens_space, ih]

/-- A word without spaces is one token. -/
theorem tokens_word (w : List Char) (hw : w ≠ []) (hs : ' ' ∉ w) : tokens w = [w] := by
  induction w with
  | nil => exact absurd rfl hw
  | cons ch w ih =>
    simp only [List.mem_cons, not_or] at hs
    have hch : ¬(ch == ' ') = true := by simpa using Ne.symm hs.1
    cases w with
    | nil => simp [tokens, splitAt, hch]
    | cons next w =>
      have hrest := ih (by simp) hs.2
      have hnext : ¬(next == ' ') = true := by
        have := hs.2
        simp only [List.mem_cons, not_or] at this
        simpa using Ne.symm this.1
      simp only [tokens] at hrest ⊢
      rw [splitAt, if_neg hch, if_neg hnext, hrest]

/-- A word ended by a space is the first token. -/
theorem tokens_word_space (w : List Char) (hw : w ≠ []) (hs : ' ' ∉ w) (text : List Char) :
    tokens (w ++ ' ' :: text) = w :: tokens text := by
  induction w with
  | nil => exact absurd rfl hw
  | cons ch w ih =>
    simp only [List.mem_cons, not_or] at hs
    have hch : ¬(ch == ' ') = true := by simpa using Ne.symm hs.1
    cases w with
    | nil => simp [tokens, splitAt, hch]
    | cons next w =>
      have hrest := ih (by simp) hs.2
      have hnext : ¬(next == ' ') = true := by
        have := hs.2
        simp only [List.mem_cons, not_or] at this
        simpa using Ne.symm this.1
      simp only [tokens, List.cons_append] at hrest ⊢
      rw [splitAt, if_neg hch, if_neg hnext, hrest]

/-- All convert. -/
theorem convertAll_map {α β γ : Type} (g : α → Option β) (a : γ → α) (b : γ → β) (h : ∀ c, g (a c) = some (b c))
    (xs : List γ) : convertAll g (xs.map a) = some (xs.map b) := by
  induction xs with
  | nil => rfl
  | cons x xs ih => simp only [List.map_cons, convertAll, h, ih]

/-- One that does not convert rejects all. -/
theorem convertAll_none {α β : Type} (g : α → Option β) (a : α) (h : g a = none) (xs : List α) (ha : a ∈ xs) :
    convertAll g xs = none := by
  induction xs with
  | nil => cases ha
  | cons x xs ih =>
    obtain rfl | ha := List.mem_cons.mp ha
    · simp only [convertAll, h]
    · cases hx : g x <;> simp only [convertAll, hx, ih ha]

end Sys2Proof.Machine
end

