-- ==== Sys2Proof/Laws/Batch.lean ====
section
/-! SUPPORT. The loop over a Gen2 batch (spec/44_decode_gen2.md R143, R146, R147) as one statement per thing it carries. -/

namespace Sys2Proof.Machine

/-- Moves applied to a cube state one after another. -/
def applyMoves (M : MoveTables) (ms : List (Face × Modifier)) (c : CubeState) : CubeState :=
  ms.foldl (fun c m => applyMove M m.1 m.2 c) c

@[simp] theorem applyMoves_nil (M : MoveTables) (c : CubeState) : applyMoves M [] c = c := rfl

@[simp] theorem applyMoves_cons (M : MoveTables) (m : Face × Modifier) (ms : List (Face × Modifier)) (c : CubeState) :
    applyMoves M (m :: ms) c = applyMoves M ms (applyMove M m.1 m.2 c) := rfl

/-- The moves of the slots read, corrupted ones left out. -/
def movesRead (read : List Slot) : List (Face × Modifier) := read.filterMap slotMove

theorem movesRead_length_le (read : List Slot) : (movesRead read).length ≤ read.length :=
  List.length_filterMap_le ..

@[simp] theorem batchLoop_nil (M : MoveTables) (a : BatchLoop) : batchLoop M [] a = a := rfl

@[simp] theorem batchLoop_cons (M : MoveTables) (slot : Slot) (read : List Slot) (a : BatchLoop) :
    batchLoop M (slot :: read) a = batchLoop M read (batchSlot M slot a) := rfl

/-- The cube after the loop: the moves applied in the order read. -/
theorem batchLoop_cube (M : MoveTables) (read : List Slot) (a : BatchLoop) :
    (batchLoop M read a).cube = applyMoves M (movesRead read) a.cube := by
  induction read generalizing a with
  | nil => rfl
  | cons slot read ih =>
    rw [batchLoop_cons, ih]
    cases h : slotMove slot <;> simp [batchSlot, movesRead, h]

/-- The number of moves emitted. -/
theorem batchLoop_n (M : MoveTables) (read : List Slot) (a : BatchLoop) :
    (batchLoop M read a).n = a.n + (movesRead read).length := by
  induction read generalizing a with
  | nil => rfl
  | cons slot read ih =>
    rw [batchLoop_cons, ih]
    cases h : slotMove slot
    · simp [batchSlot, movesRead, h]
    · simp [batchSlot, movesRead, h]
      omega

/-- The number of slots skipped: the others. -/
theorem batchLoop_skip (M : MoveTables) (read : List Slot) (a : BatchLoop) :
    (batchLoop M read a).skip = a.skip + (read.length - (movesRead read).length) := by
  induction read generalizing a with
  | nil => rfl
  | cons slot read ih =>
    have hle := movesRead_length_le read
    rw [batchLoop_cons, ih]
    cases h : slotMove slot
    · simp only [batchSlot, h, movesRead, List.filterMap_cons, List.length_cons] at hle ⊢
      omega
    · simp [batchSlot, movesRead, h]

/-- The move codes: written from entry `n` on, oldest first (R147). -/
theorem batchLoop_mv (M : MoveTables) (read : List Slot) (a : BatchLoop) (h : a.n + (movesRead read).length ≤ 7) :
    (batchLoop M read a).mv.toList =
      a.mv.toList.take a.n ++ ((movesRead read).map fun m => moveCode m.1 m.2) ++
        a.mv.toList.drop (a.n + (movesRead read).length) := by
  induction read generalizing a with
  | nil => simp [movesRead]
  | cons slot read ih =>
    rw [batchLoop_cons]
    cases hs : slotMove slot with
    | none =>
      have hm : movesRead (slot :: read) = movesRead read := by simp [movesRead, hs]
      rw [hm] at h ⊢
      rw [ih _ (by simpa [batchSlot, hs] using h)]
      simp [batchSlot, hs]
    | some m =>
      have hm : movesRead (slot :: read) = m :: movesRead read := by simp [movesRead, hs]
      rw [hm, List.length_cons] at h
      rw [hm, ih _ (by simp only [batchSlot, hs]; omega)]
      have hlen : a.mv.toList.length = 7 := by simp
      simp only [batchSlot, hs, Vector.toList_setIfInBounds, List.map_cons, List.length_cons]
      rw [List.drop_set_of_lt (by omega), List.take_set, List.take_add_one,
        List.getElem?_eq_getElem (by omega), Option.toList_some, List.set_append_right _ _ (by simp)]
      simp [hlen, show min a.n 7 = a.n by omega, Nat.add_assoc, Nat.add_comm 1]

/-- The slots read are at most seven. -/
theorem readOrder_length (slots : Vector Slot 7) (pending : Nat) : (readOrder slots pending).length = min pending 7 := by
  simp [readOrder]

theorem pendingCount_le (delta : BitVec 8) : pendingCount delta ≤ 7 := Nat.min_le_right ..

end Sys2Proof.Machine
end

