-- ==== Sys2Proof/Laws/Cube.lean ====
section
/-! SUPPORT. Moves on the cube: what a quarter turn does lane by lane, that it keeps the invariant of spec/10_state.md
R24 and the orientation sums (spec/40_cube_state.md R105), and how turns compose (R102, R107). -/

namespace Sys2Proof.Machine

/-! ### Lane by lane -/

@[simp] theorem quarterTurn_cp (T : FaceTable) (c : CubeState) (i : Fin 8) :
    (quarterTurn T c).cp[i] = c.cp[T.cp i] := by simp [quarterTurn]

@[simp] theorem quarterTurn_co (T : FaceTable) (c : CubeState) (i : Fin 8) :
    (quarterTurn T c).co[i].toNat = (c.co[T.cp i].toNat + (T.co i).val) % 3 := by
  simp only [quarterTurn, Fin.getElem_fin, Vector.getElem_ofFn, BitVec.toNat_ofNat, Fin.eta]
  omega

@[simp] theorem quarterTurn_ep (T : FaceTable) (c : CubeState) (j : Fin 12) :
    (quarterTurn T c).ep[j] = c.ep[T.ep j] := by simp [quarterTurn]

@[simp] theorem quarterTurn_eo (T : FaceTable) (c : CubeState) (j : Fin 12) :
    (quarterTurn T c).eo[j].toNat = (c.eo[T.ep j].toNat + (T.eo j).val) % 2 := by
  simp only [quarterTurn, Fin.getElem_fin, Vector.getElem_ofFn, BitVec.toNat_ofNat, Fin.eta]
  omega

/-- Two cube states with the same lanes are equal. -/
theorem cubeState_ext {a b : CubeState} (hcp : ∀ i : Fin 8, a.cp[i] = b.cp[i]) (hco : ∀ i : Fin 8, a.co[i] = b.co[i])
    (hep : ∀ j : Fin 12, a.ep[j] = b.ep[j]) (heo : ∀ j : Fin 12, a.eo[j] = b.eo[j]) : a = b := by
  cases a
  cases b
  simp only [CubeState.mk.injEq]
  refine ⟨?_, ?_, ?_, ?_⟩ <;> ext i hi
  · exact congrArg (fun v => BitVec.getLsbD v _) (hcp ⟨i, hi⟩)
  · exact congrArg (fun v => BitVec.getLsbD v _) (hco ⟨i, hi⟩)
  · exact congrArg (fun v => BitVec.getLsbD v _) (hep ⟨i, hi⟩)
  · exact congrArg (fun v => BitVec.getLsbD v _) (heo ⟨i, hi⟩)

/-! ### The lists the checks look at -/

theorem toList_map_eq_ofFn {w n : Nat} (v : Vector (BitVec w) n) :
    v.toList.map BitVec.toNat = List.ofFn fun i : Fin n => v[i].toNat := by
  apply List.ext_getElem <;> simp

theorem coInRange_iff (c : CubeState) : coInRange c = true ↔ ∀ i : Fin 8, c.co[i].toNat ≤ 2 := by
  simp only [coInRange, List.all_eq_true, decide_eq_true_eq]
  constructor
  · intro h i
    exact h _ (by simp)
  · intro h v hv
    obtain ⟨i, hi, rfl⟩ := List.getElem_of_mem hv
    simpa using h ⟨i, by simpa using hi⟩

theorem coSum_eq (c : CubeState) : (c.co.toList.map BitVec.toNat).sum = ∑ i : Fin 8, c.co[i].toNat := by
  rw [toList_map_eq_ofFn, List.sum_ofFn]

theorem eoSum_eq (c : CubeState) : (c.eo.toList.map BitVec.toNat).sum = ∑ j : Fin 12, c.eo[j].toNat := by
  rw [toList_map_eq_ofFn, List.sum_ofFn]

/-- Appearing exactly once is not changed by rearranging. -/
theorem eachOnce_comp_perm {m n : Nat} (g : Fin n → Nat) (σ : Equiv.Perm (Fin n)) :
    eachOnce m (List.ofFn (g ∘ σ)) = eachOnce m (List.ofFn g) := by
  simp only [eachOnce, (Equiv.Perm.ofFn_comp_perm σ g).count_eq]

/-- A number appears once in a list of lanes when exactly one lane holds it. -/
theorem count_ofFn_eq_one {n : Nat} (g : Fin n → Nat) (v : Nat) :
    (List.ofFn g).count v = 1 ↔ ∃! i : Fin n, g i = v := by
  have hcard : (List.ofFn g).count v = (Finset.univ.filter fun i : Fin n => g i = v).card := by
    rw [List.ofFn_eq_map, List.count, List.countP_map, List.countP_eq_length_filter]
    have : ((fun x => x == v) ∘ g) = fun i => decide (g i = v) := by
      funext i
      exact beq_eq_decide (g i) v
    rw [this]
    rfl
  rw [hcard, Finset.card_eq_one]
  simp only [Finset.ext_iff, Finset.mem_filter, Finset.mem_univ, true_and, Finset.mem_singleton]
  exact ⟨fun ⟨a, ha⟩ => ⟨a, (ha a).mpr rfl, fun b hb => (ha b).mp hb⟩,
    fun ⟨a, ha, hu⟩ => ⟨a, fun b => ⟨hu b, fun hb => hb ▸ ha⟩⟩⟩

theorem eachOnce_ofFn {n : Nat} (m : Nat) (g : Fin n → Nat) :
    eachOnce m (List.ofFn g) = true ↔ ∀ v < m, ∃! i : Fin n, g i = v := by
  simp [eachOnce, count_ofFn_eq_one]

/-- An injective table of a face is a permutation. -/
noncomputable def permOf {n : Nat} (g : Fin n → Fin n) (h : Function.Injective g) : Equiv.Perm (Fin n) :=
  Equiv.ofBijective g (Finite.injective_iff_bijective.mp h)

/-! ### The invariant -/

theorem quarterTurn_coInRange (T : FaceTable) (c : CubeState) : coInRange (quarterTurn T c) = true := by
  rw [coInRange_iff]
  intro i
  rw [quarterTurn_co]
  omega

/-- A quarter turn keeps the corner orientation sum modulo 3 (R105). -/
theorem quarterTurn_coSum {T : FaceTable} (h : WellTabled T) (c : CubeState) :
    (∑ i : Fin 8, (quarterTurn T c).co[i].toNat) % 3 = (∑ i : Fin 8, c.co[i].toNat) % 3 := by
  have hperm : ∑ i : Fin 8, c.co[T.cp i].toNat = ∑ i : Fin 8, c.co[i].toNat :=
    Equiv.sum_comp (permOf T.cp h.wt1_corners) fun i : Fin 8 => c.co[i].toNat
  simp only [quarterTurn_co]
  rw [← Finset.sum_nat_mod, Finset.sum_add_distrib, hperm, Nat.add_mod, h.wt3_corners]
  simp

/-- A quarter turn keeps the edge orientation sum modulo 2 (R105). -/
theorem quarterTurn_eoSum {T : FaceTable} (h : WellTabled T) (c : CubeState) :
    (∑ j : Fin 12, (quarterTurn T c).eo[j].toNat) % 2 = (∑ j : Fin 12, c.eo[j].toNat) % 2 := by
  have hperm : ∑ j : Fin 12, c.eo[T.ep j].toNat = ∑ j : Fin 12, c.eo[j].toNat :=
    Equiv.sum_comp (permOf T.ep h.wt1_edges) fun j : Fin 12 => c.eo[j].toNat
  simp only [quarterTurn_eo]
  rw [← Finset.sum_nat_mod, Finset.sum_add_distrib, hperm, Nat.add_mod, h.wt3_edges]
  simp

/-- A quarter turn keeps the invariant (R105). -/
theorem quarterTurn_valid {T : FaceTable} (h : WellTabled T) (c : CubeState) (hc : validState c = true) :
    validState (quarterTurn T c) = true := by
  simp only [validState, Bool.and_eq_true, vs1, vs2, vs3, vs4, vs5, beq_iff_eq, coSum_eq, eoSum_eq] at hc ⊢
  obtain ⟨⟨⟨⟨h1, -⟩, h3⟩, h4⟩, h5⟩ := hc
  refine ⟨⟨⟨⟨?_, quarterTurn_coInRange T c⟩, ?_⟩, by rw [quarterTurn_coSum h, h4]⟩, by rw [quarterTurn_eoSum h, h5]⟩
  · rw [toList_map_eq_ofFn] at h1 ⊢
    simp only [quarterTurn_cp]
    exact (eachOnce_comp_perm (fun i : Fin 8 => c.cp[i].toNat) (permOf T.cp h.wt1_corners)).trans h1
  · rw [toList_map_eq_ofFn] at h3 ⊢
    simp only [quarterTurn_ep]
    exact (eachOnce_comp_perm (fun j : Fin 12 => c.ep[j].toNat) (permOf T.ep h.wt1_edges)).trans h3

/-- A property a quarter turn keeps is kept by any number of them. -/
theorem turnTimes_induction {T : FaceTable} {p : CubeState → Prop} (hT : ∀ c, p c → p (quarterTurn T c)) :
    ∀ (n : Nat) (c : CubeState), p c → p (turnTimes T n c)
  | 0, _, hc => hc
  | n + 1, c, hc => turnTimes_induction hT n _ (hT c hc)

theorem applyMove_induction {M : MoveTables} {p : CubeState → Prop} (face : Face) (m : Modifier) (c : CubeState)
    (hT : ∀ c, p c → p (quarterTurn (M.table face) c)) (hc : p c) : p (applyMove M face m c) :=
  turnTimes_induction hT _ c hc

theorem applyMove_valid (M : MoveTables) (face : Face) (m : Modifier) (c : CubeState) (hc : validState c = true) :
    validState (applyMove M face m c) = true :=
  applyMove_induction face m c (fun c => quarterTurn_valid (M.wellTabled face) c) hc

theorem applyMove_coSum (M : MoveTables) (face : Face) (m : Modifier) (c : CubeState) :
    (∑ i : Fin 8, (applyMove M face m c).co[i].toNat) % 3 = (∑ i : Fin 8, c.co[i].toNat) % 3 :=
  applyMove_induction (p := fun d => (∑ i : Fin 8, d.co[i].toNat) % 3 = (∑ i : Fin 8, c.co[i].toNat) % 3) face m c
    (fun d hd => (quarterTurn_coSum (M.wellTabled face) d).trans hd) rfl

theorem applyMove_eoSum (M : MoveTables) (face : Face) (m : Modifier) (c : CubeState) :
    (∑ j : Fin 12, (applyMove M face m c).eo[j].toNat) % 2 = (∑ j : Fin 12, c.eo[j].toNat) % 2 :=
  applyMove_induction (p := fun d => (∑ j : Fin 12, d.eo[j].toNat) % 2 = (∑ j : Fin 12, c.eo[j].toNat) % 2) face m c
    (fun d hd => (quarterTurn_eoSum (M.wellTabled face) d).trans hd) rfl

/-! ### Composition -/

theorem turnTimes_add (T : FaceTable) (m n : Nat) (c : CubeState) :
    turnTimes T (m + n) c = turnTimes T n (turnTimes T m c) := by
  induction m generalizing c with
  | zero => simp [turnTimes]
  | succ m ih => rw [Nat.succ_add]; exact ih (quarterTurn T c)

theorem turnTimes_coInRange (T : FaceTable) (n : Nat) (c : CubeState) (hc : coInRange c = true) :
    coInRange (turnTimes T n c) = true :=
  turnTimes_induction (p := fun d => coInRange d = true) (fun d _ => quarterTurn_coInRange T d) n c hc

/-- Full circles are the identity (WT4). -/
theorem turnTimes_four_mul {T : FaceTable} (h : WellTabled T) (k : Nat) (c : CubeState) (hc : coInRange c = true) :
    turnTimes T (4 * k) c = c := by
  induction k generalizing c with
  | zero => rfl
  | succ k ih => rw [Nat.mul_succ, turnTimes_add, ih c hc, h.wt4 c hc]

end Sys2Proof.Machine
end

