-- ==== Sys2Proof/Laws/State.lean ====
section
/-! SUPPORT. One lemma per field per update of the state, so that no proof unfolds a record update. -/

namespace Sys2Proof.Machine

@[simp] theorem raiseStatus_gen (c : StatusCode) (s : State) : (raiseStatus c s).gen = s.gen := rfl
@[simp] theorem raiseStatus_trkSeeded (c : StatusCode) (s : State) : (raiseStatus c s).trkSeeded = s.trkSeeded := rfl
@[simp] theorem raiseStatus_trkLast (c : StatusCode) (s : State) : (raiseStatus c s).trkLast = s.trkLast := rfl
@[simp] theorem raiseStatus_cube (c : StatusCode) (s : State) : (raiseStatus c s).cube = s.cube := rfl
@[simp] theorem raiseStatus_qprev (c : StatusCode) (s : State) : (raiseStatus c s).qprev = s.qprev := rfl
@[simp] theorem raiseStatus_qcur (c : StatusCode) (s : State) : (raiseStatus c s).qcur = s.qcur := rfl
@[simp] theorem raiseStatus_result (c : StatusCode) (s : State) : (raiseStatus c s).result = { Result.empty with status := statusWord c 0 0 } := rfl
@[simp] theorem raiseStatus_pending (c : StatusCode) (s : State) : (raiseStatus c s).pending = s.pending := rfl

@[simp] theorem completeOk_gen (s : State) : (completeOk s).gen = s.gen := rfl
@[simp] theorem completeOk_trkSeeded (s : State) : (completeOk s).trkSeeded = s.trkSeeded := rfl
@[simp] theorem completeOk_trkLast (s : State) : (completeOk s).trkLast = s.trkLast := rfl
@[simp] theorem completeOk_cube (s : State) : (completeOk s).cube = s.cube := rfl
@[simp] theorem completeOk_qprev (s : State) : (completeOk s).qprev = s.qprev := rfl
@[simp] theorem completeOk_qcur (s : State) : (completeOk s).qcur = s.qcur := rfl
@[simp] theorem completeOk_result (s : State) : (completeOk s).result = { Result.empty with status := statusWord .ok 0 0 } := rfl
@[simp] theorem completeOk_pending (s : State) : (completeOk s).pending = s.pending := rfl

@[simp] theorem emitUnknown_gen (tag : Byte) (s : State) : (emitUnknown tag s).gen = s.gen := rfl
@[simp] theorem emitUnknown_trkSeeded (tag : Byte) (s : State) : (emitUnknown tag s).trkSeeded = s.trkSeeded := rfl
@[simp] theorem emitUnknown_trkLast (tag : Byte) (s : State) : (emitUnknown tag s).trkLast = s.trkLast := rfl
@[simp] theorem emitUnknown_cube (tag : Byte) (s : State) : (emitUnknown tag s).cube = s.cube := rfl
@[simp] theorem emitUnknown_qprev (tag : Byte) (s : State) : (emitUnknown tag s).qprev = s.qprev := rfl
@[simp] theorem emitUnknown_qcur (tag : Byte) (s : State) : (emitUnknown tag s).qcur = s.qcur := rfl
@[simp] theorem emitUnknown_result (tag : Byte) (s : State) : (emitUnknown tag s).result = { Result.empty with status := statusWord .ok 0 0, kind := .unknown, tag := tag } := rfl
@[simp] theorem emitUnknown_pending (tag : Byte) (s : State) : (emitUnknown tag s).pending = s.pending := rfl

@[simp] theorem orientUpdate_gen (raw : Quat16) (vel : Velocity) (s : State) : (orientUpdate raw vel s).gen = s.gen := rfl
@[simp] theorem orientUpdate_trkSeeded (raw : Quat16) (vel : Velocity) (s : State) : (orientUpdate raw vel s).trkSeeded = s.trkSeeded := rfl
@[simp] theorem orientUpdate_trkLast (raw : Quat16) (vel : Velocity) (s : State) : (orientUpdate raw vel s).trkLast = s.trkLast := rfl
@[simp] theorem orientUpdate_cube (raw : Quat16) (vel : Velocity) (s : State) : (orientUpdate raw vel s).cube = s.cube := rfl
@[simp] theorem orientUpdate_qprev (raw : Quat16) (vel : Velocity) (s : State) : (orientUpdate raw vel s).qprev = s.qcur := rfl
@[simp] theorem orientUpdate_qcur (raw : Quat16) (vel : Velocity) (s : State) : (orientUpdate raw vel s).qcur = (raw.map sm16).map (BitVec.ofInt 16) := rfl
@[simp] theorem orientUpdate_pending (raw : Quat16) (vel : Velocity) (s : State) : (orientUpdate raw vel s).pending = s.pending := rfl

@[simp] theorem present_gen (s : State) (r : CommandRecord) : (s.present r).gen = s.gen := rfl
@[simp] theorem present_trkSeeded (s : State) (r : CommandRecord) : (s.present r).trkSeeded = s.trkSeeded := rfl
@[simp] theorem present_trkLast (s : State) (r : CommandRecord) : (s.present r).trkLast = s.trkLast := rfl
@[simp] theorem present_cube (s : State) (r : CommandRecord) : (s.present r).cube = s.cube := rfl
@[simp] theorem present_qprev (s : State) (r : CommandRecord) : (s.present r).qprev = s.qprev := rfl
@[simp] theorem present_qcur (s : State) (r : CommandRecord) : (s.present r).qcur = s.qcur := rfl
@[simp] theorem present_result (s : State) (r : CommandRecord) : (s.present r).result = s.result := rfl
@[simp] theorem present_pending (s : State) (r : CommandRecord) : (s.present r).pending = r :: s.pending := rfl

@[simp] theorem decodeOneHotMove_gen (d : BitVec 2) (o : BitVec 6) (s : State) : (decodeOneHotMove d o s).gen = s.gen := by
  unfold decodeOneHotMove; split <;> rfl
@[simp] theorem decodeOneHotMove_trkSeeded (d : BitVec 2) (o : BitVec 6) (s : State) :
    (decodeOneHotMove d o s).trkSeeded = s.trkSeeded := by unfold decodeOneHotMove; split <;> rfl
@[simp] theorem decodeOneHotMove_trkLast (d : BitVec 2) (o : BitVec 6) (s : State) :
    (decodeOneHotMove d o s).trkLast = s.trkLast := by unfold decodeOneHotMove; split <;> rfl
@[simp] theorem decodeOneHotMove_qprev (d : BitVec 2) (o : BitVec 6) (s : State) :
    (decodeOneHotMove d o s).qprev = s.qprev := by unfold decodeOneHotMove; split <;> rfl
@[simp] theorem decodeOneHotMove_qcur (d : BitVec 2) (o : BitVec 6) (s : State) :
    (decodeOneHotMove d o s).qcur = s.qcur := by unfold decodeOneHotMove; split <;> rfl
@[simp] theorem decodeOneHotMove_pending (d : BitVec 2) (o : BitVec 6) (s : State) :
    (decodeOneHotMove d o s).pending = s.pending := by unfold decodeOneHotMove; split <;> rfl

@[simp] theorem snapshot_gen (b : Bool) (c : Byte) (s : State) : (snapshot b c s).gen = s.gen := by
  unfold snapshot; split <;> rfl
@[simp] theorem snapshot_qprev (b : Bool) (c : Byte) (s : State) : (snapshot b c s).qprev = s.qprev := by
  unfold snapshot; split <;> rfl
@[simp] theorem snapshot_qcur (b : Bool) (c : Byte) (s : State) : (snapshot b c s).qcur = s.qcur := by
  unfold snapshot; split <;> rfl
@[simp] theorem snapshot_pending (b : Bool) (c : Byte) (s : State) : (snapshot b c s).pending = s.pending := by
  unfold snapshot; split <;> rfl
@[simp] theorem snapshot_cube (b : Bool) (c : Byte) (s : State) : (snapshot b c s).cube = s.cube := by
  unfold snapshot; split <;> rfl
@[simp] theorem snapshot_result (b : Bool) (c : Byte) (s : State) :
    (snapshot b c s).result = { Result.empty with status := statusWord .ok 0 0, kind := .facelets } := by
  unfold snapshot; split <;> rfl

@[simp] theorem seededBatch_gen (c : Byte) (sl : Vector Slot 7) (s : State) : (seededBatch c sl s).gen = s.gen := by
  unfold seededBatch; dsimp only; split <;> rfl
@[simp] theorem seededBatch_trkSeeded (c : Byte) (sl : Vector Slot 7) (s : State) : (seededBatch c sl s).trkSeeded = s.trkSeeded := by
  unfold seededBatch; dsimp only; split <;> rfl
@[simp] theorem seededBatch_qprev (c : Byte) (sl : Vector Slot 7) (s : State) : (seededBatch c sl s).qprev = s.qprev := by
  unfold seededBatch; dsimp only; split <;> rfl
@[simp] theorem seededBatch_qcur (c : Byte) (sl : Vector Slot 7) (s : State) : (seededBatch c sl s).qcur = s.qcur := by
  unfold seededBatch; dsimp only; split <;> rfl
@[simp] theorem seededBatch_pending (c : Byte) (sl : Vector Slot 7) (s : State) : (seededBatch c sl s).pending = s.pending := by
  unfold seededBatch; dsimp only; split <;> rfl
@[simp] theorem seededBatch_trkLast (c : Byte) (sl : Vector Slot 7) (s : State) : (seededBatch c sl s).trkLast = c := by
  unfold seededBatch; dsimp only; split <;> rfl

end Sys2Proof.Machine
end

