-- ==== Sys2Proof/Laws/Exec.lean ====
section
/-! SUPPORT. Said once: everything an instruction can do (`exec_effect`), and how DECODE and a step reach it. -/

namespace Sys2Proof.Machine

/-- What a command or packet can do to the state. -/
inductive Effect (s : State) : State → Prop where
  | raised (c : StatusCode) (hok : c ≠ .ok) (hw : c ≠ .warnNoNew) : Effect s (raiseStatus c s)
  | done : Effect s (completeOk s)
  | reset : Effect s (completeOk { State.reset with pending := s.pending })
  | select (g : Generation) (hg : g ≠ .none) (hs : s.gen = .none) : Effect s (completeOk { s with gen := g })
  | turned (face : Face) (m : Modifier) :
      Effect s (completeOk { s with cube := applyMove Config.moveTables face m s.cube })
  | matched (c : CubeState) (hc : s.cube = c) : Effect s (completeOk { s with cube := c })
  | adopted (c : CubeState) (hv : validState c = true) (hc : s.cube ≠ c) :
      Effect s { s with
        cube := c
        result := { Result.empty with status := statusWord .ok 0 0, kind := .reconWarn, expState := s.cube, actState := c } }
  | sampled (raw : Quat16) (v : Velocity) : Effect s (orientUpdate raw v s)
  | unknown (tag : Byte) : Effect s (emitUnknown tag s)
  | moved (d : BitVec 2) (o : BitVec 6) (k : Fin 6) (hk : oneHotIndex o = some k) : Effect s (decodeOneHotMove d o s)
  | facelets (c : Byte) : Effect s (snapshot Config.reseedOnSnapshot c s)
  | batch (c : Byte) (slots : Vector Slot 7) (hs : s.trkSeeded = true) : Effect s (seededBatch c slots s)

theorem decodeOneHotMove_effect (d : BitVec 2) (o : BitVec 6) (s : State) : Effect s (decodeOneHotMove d o s) := by
  cases h : oneHotIndex o with
  | none =>
    have : decodeOneHotMove d o s = raiseStatus .malformedOnehot s := by simp [decodeOneHotMove, h]
    rw [this]
    exact .raised _ (by decide) (by decide)
  | some k => exact .moved d o k h

/-- The routine of a packet is the meaning of the packet's instruction. -/
theorem runPacket_eq_exec (p : Packet) (s : State) : runPacket p s = exec p.toInstr s := by cases p <;> rfl

/-- Every packet completes, and what it can do. -/
theorem packet_effect (p : Packet) (s : State) : ∃ t, exec p.toInstr s = .next t ∧ Effect s t := by
  cases p with
  | g4Move d o => exact ⟨_, rfl, decodeOneHotMove_effect d o s⟩
  | g4Orient raw v => exact ⟨_, rfl, .sampled raw v⟩
  | g4Unknown tag => exact ⟨_, rfl, .unknown tag⟩
  | g3Dropped _ _ _ => exact ⟨_, rfl, .raised _ (by decide) (by decide)⟩
  | g3MoveA d o => exact ⟨_, rfl, decodeOneHotMove_effect d o s⟩
  | g3MoveB d o => exact ⟨_, rfl, decodeOneHotMove_effect d o s⟩
  | g3Unknown _ tag _ => exact ⟨_, rfl, .unknown tag⟩
  | g2Snapshot c => exact ⟨_, rfl, .facelets c⟩
  | g2Batch c slots =>
    show ∃ t, execG2Batch c slots s = .next t ∧ Effect s t
    unfold execG2Batch
    split
    · exact ⟨_, rfl, .raised _ (by decide) (by decide)⟩
    · next h => exact ⟨_, rfl, .batch c slots (by simpa using h)⟩
  | g2Orient raw v => exact ⟨_, rfl, .sampled raw v⟩
  | g2Unknown tag => exact ⟨_, rfl, .unknown _⟩

/-- Without a selected generation DECODE raises NO_GEN. -/
theorem exec_decode_none (P : List Byte) (s : State) (h : s.gen = .none) :
    exec (.decode P) s = .next (raiseStatus .noGen s) := by
  simp [exec, execDecode, h, decodePacket]

/-- With a generation and an accepted length DECODE is the packet's instruction. -/
theorem exec_decode_packet (P : List Byte) (s : State) (p : Packet) (hp : decodePacket s.gen P = some p)
    (hl : P.length ∈ Config.payloadLengths) : exec (.decode P) s = exec p.toInstr s := by
  show execDecode P s = _
  simp only [execDecode, hp, hl, if_true]
  exact runPacket_eq_exec p s

/-- With a generation and another length DECODE raises MALFORMED_LENGTH. -/
theorem exec_decode_length (P : List Byte) (s : State) (hg : s.gen ≠ .none)
    (hl : P.length ∉ Config.payloadLengths) : exec (.decode P) s = .next (raiseStatus .malformedLength s) := by
  cases h : decodePacket s.gen P with
  | none => cases hs : s.gen <;> simp_all [decodePacket]
  | some p => simp [exec, execDecode, h, hl]

/-- A payload is some packet for every selected generation. -/
theorem decodePacket_some (g : Generation) (P : List Byte) (hg : g ≠ .none) :
    ∃ p, decodePacket g P = some p ∧ p.generation = g := by
  cases g with
  | none => exact absurd rfl hg
  | gen4 => refine ⟨_, rfl, ?_⟩; simp only [decodeGen4]; split_ifs <;> rfl
  | gen3 => refine ⟨_, rfl, ?_⟩; simp only [decodeGen3]; split_ifs <;> rfl
  | gen2 => refine ⟨_, rfl, ?_⟩; simp only [decodeGen2]; split_ifs <;> rfl

/-- The three ways of DECODE. -/
theorem exec_decode_cases (P : List Byte) (s : State) :
    (s.gen = .none ∧ exec (.decode P) s = .next (raiseStatus .noGen s)) ∨
    (s.gen ≠ .none ∧ P.length ∉ Config.payloadLengths ∧ exec (.decode P) s = .next (raiseStatus .malformedLength s)) ∨
    (P.length ∈ Config.payloadLengths ∧
      ∃ p, decodePacket s.gen P = some p ∧ p.generation = s.gen ∧ exec (.decode P) s = exec p.toInstr s) := by
  by_cases hg : s.gen = .none
  · exact .inl ⟨hg, exec_decode_none P s hg⟩
  · by_cases hl : P.length ∈ Config.payloadLengths
    · obtain ⟨p, hp, hpg⟩ := decodePacket_some s.gen P hg
      exact .inr (.inr ⟨hl, p, hp, hpg, exec_decode_packet P s p hp hl⟩)
    · exact .inr (.inl ⟨hg, hl, exec_decode_length P s hg hl⟩)

/-- Every instruction completes, and what it can do. -/
theorem exec_effect (i : Instr) (s : State) : ∃ t, exec i s = .next t ∧ Effect s t := by
  cases i with
  | nop => exact ⟨_, rfl, .done⟩
  | reset => exact ⟨_, rfl, .reset⟩
  | setgen g =>
    show ∃ t, execSetgen g s = .next t ∧ Effect s t
    unfold execSetgen
    split
    · exact ⟨_, rfl, .raised _ (by decide) (by decide)⟩
    · next gen hgen =>
      split
      · exact ⟨_, rfl, .raised _ (by decide) (by decide)⟩
      · next h =>
        refine ⟨_, rfl, .select gen ?_ (by simpa using h)⟩
        unfold generationOfCode at hgen
        split_ifs at hgen <;> cases hgen <;> decide
  | decode P =>
    obtain ⟨-, h⟩ | ⟨-, -, h⟩ | ⟨-, p, -, -, h⟩ := exec_decode_cases P s
    · exact ⟨_, h, .raised _ (by decide) (by decide)⟩
    · exact ⟨_, h, .raised _ (by decide) (by decide)⟩
    · rw [h]; exact packet_effect p s
  | apply f m =>
    show ∃ t, execApply f m s = .next t ∧ Effect s t
    unfold execApply
    split
    · exact ⟨_, rfl, .raised _ (by decide) (by decide)⟩
    · split
      · exact ⟨_, rfl, .raised _ (by decide) (by decide)⟩
      · exact ⟨_, rfl, .turned _ _⟩
  | recon c =>
    show ∃ t, execRecon c s = .next t ∧ Effect s t
    unfold execRecon
    split
    · exact ⟨_, rfl, .raised _ (by decide) (by decide)⟩
    · next hv =>
      split
      · next hc => exact ⟨_, rfl, .matched c hc⟩
      · next hc => exact ⟨_, rfl, .adopted c (by simpa using hv) hc⟩
  | orient raw => exact ⟨_, rfl, .sampled raw _⟩
  | g4Move d o => exact packet_effect (.g4Move d o) s
  | g4Orient raw v => exact packet_effect (.g4Orient raw v) s
  | g4Unknown tag => exact packet_effect (.g4Unknown tag) s
  | g3Dropped a b c => exact packet_effect (.g3Dropped a b c) s
  | g3MoveA d o => exact packet_effect (.g3MoveA d o) s
  | g3MoveB d o => exact packet_effect (.g3MoveB d o) s
  | g3Unknown a b c => exact packet_effect (.g3Unknown a b c) s
  | g2Snapshot c => exact packet_effect (.g2Snapshot c) s
  | g2Batch c slots => exact packet_effect (.g2Batch c slots) s
  | g2Orient raw v => exact packet_effect (.g2Orient raw v) s
  | g2Unknown tag => exact packet_effect (.g2Unknown tag) s

/-- The effect behind a completed instruction. -/
theorem effect_of_exec {i : Instr} {s t : State} (h : exec i s = .next t) : Effect s t := by
  obtain ⟨u, hu, he⟩ := exec_effect i s
  rw [h] at hu
  cases hu
  exact he

/-- No effect touches the records the host has lined up. -/
theorem Effect.pending {s t : State} (h : Effect s t) : t.pending = s.pending := by
  cases h <;> simp

/-- A step on a presented record. -/
theorem step_present (s : State) (r : CommandRecord) :
    step (s.present r) = match decodeRecord r with
      | .ok i => exec i s
      | .error e => rejectRecord e s := rfl

/-- The ways a step can end in a next state. -/
theorem step_cases {s t : State} (h : step s = .next t) :
    (s.pending = [] ∧ t = s) ∨
    ∃ r rest, s.pending = r :: rest ∧
      ((∃ i, decodeRecord r = .ok i ∧ exec i { s with pending := rest } = .next t) ∨
       t = raiseStatus .illegalCmd { s with pending := rest }) := by
  unfold step at h
  split at h
  · next hp => cases h; exact .inl ⟨hp, rfl⟩
  · next r rest hp =>
    refine .inr ⟨r, rest, hp, ?_⟩
    split at h
    · next i hi => exact .inl ⟨i, hi, h⟩
    · next e he =>
      cases e <;> simp [rejectRecord] at h
      · exact .inr h.symm
      · exact .inr h.symm

end Sys2Proof.Machine
end

