-- ==== Sys2Proof/Laws/Quaternion.lean ====
section
/-! SUPPORT. The orientation engine's numbers: the range of a numerator, that what is written fits its register, and the
bound of a relative quaternion (spec/45_orientation.md R160, R164). -/

namespace Sys2Proof.Machine

theorem sm16_bounds (raw : BitVec 16) : -32767 ≤ sm16 raw ∧ sm16 raw ≤ 32767 := by
  have : (raw.extractLsb' 0 15).toNat < 32768 := (raw.extractLsb' 0 15).isLt
  unfold sm16
  dsimp only
  split <;> omega

/-- A number that fits a 16-bit register is what the register then holds. -/
theorem toInt_ofInt_16 (x : Int) (h : -32768 ≤ x ∧ x ≤ 32767) : (BitVec.ofInt 16 x).toInt = x := by
  rw [BitVec.toInt_ofInt]
  exact Int.bmod_eq_of_le (by norm_num; omega) (by norm_num; omega)

/-- A number that fits a 33-bit register is what the register then holds. -/
theorem toInt_ofInt_33 (x : Int) (h : -4294967296 ≤ x ∧ x ≤ 4294967295) : (BitVec.ofInt 33 x).toInt = x := by
  rw [BitVec.toInt_ofInt]
  exact Int.bmod_eq_of_le (by norm_num; omega) (by norm_num; omega)

/-- The numerator a register holds after a sample. -/
theorem toInt_ofInt_sm16 (raw : BitVec 16) : (BitVec.ofInt 16 (sm16 raw)).toInt = sm16 raw := by
  have := sm16_bounds raw
  exact toInt_ofInt_16 _ (by omega)

@[simp] theorem numerators_sample (raw : Quat16) :
    numerators ((raw.map sm16).map (BitVec.ofInt 16)) = raw.map sm16 := by
  simp only [numerators, Quat.map, toInt_ofInt_sm16]

theorem quatInRange_sample (raw : Quat16) : quatInRange ((raw.map sm16).map (BitVec.ofInt 16)) := by
  simp only [quatInRange, inNumeratorRange, Quat.map, toInt_ofInt_sm16]
  exact ⟨sm16_bounds _, sm16_bounds _, sm16_bounds _, sm16_bounds _⟩

/-- The product of two bounded numbers. -/
theorem abs_mul_le {a b A B : Int} (ha : |a| ≤ A) (hb : |b| ≤ B) : |a * b| ≤ A * B := by
  rw [abs_mul]
  exact mul_le_mul ha hb (abs_nonneg b) (le_trans (abs_nonneg a) ha)

/-- Each numerator of `c ⊗ conjugate(q)` is a sum of four products (R163). -/
theorem relQ_bound (c q : Quat Int) (A B : Int)
    (hc : |c.w| ≤ A ∧ |c.x| ≤ A ∧ |c.y| ≤ A ∧ |c.z| ≤ A) (hq : |q.w| ≤ B ∧ |q.x| ≤ B ∧ |q.y| ≤ B ∧ |q.z| ≤ B) :
    |(relQ c q).w| ≤ 4 * (A * B) ∧ |(relQ c q).x| ≤ 4 * (A * B) ∧ |(relQ c q).y| ≤ 4 * (A * B) ∧
      |(relQ c q).z| ≤ 4 * (A * B) := by
  obtain ⟨cw, cx, cy, cz⟩ := hc
  obtain ⟨qw, qx, qy, qz⟩ := hq
  have ww := abs_le.mp (abs_mul_le cw qw)
  have wx := abs_le.mp (abs_mul_le cw qx)
  have wy := abs_le.mp (abs_mul_le cw qy)
  have wz := abs_le.mp (abs_mul_le cw qz)
  have xw := abs_le.mp (abs_mul_le cx qw)
  have xx := abs_le.mp (abs_mul_le cx qx)
  have xy := abs_le.mp (abs_mul_le cx qy)
  have xz := abs_le.mp (abs_mul_le cx qz)
  have yw := abs_le.mp (abs_mul_le cy qw)
  have yx := abs_le.mp (abs_mul_le cy qx)
  have yy := abs_le.mp (abs_mul_le cy qy)
  have yz := abs_le.mp (abs_mul_le cy qz)
  have zw := abs_le.mp (abs_mul_le cz qw)
  have zx := abs_le.mp (abs_mul_le cz qx)
  have zy := abs_le.mp (abs_mul_le cz qy)
  have zz := abs_le.mp (abs_mul_le cz qz)
  simp only [relQ, hamilton, conjugate, mul_neg, sub_neg_eq_add]
  refine ⟨?_, ?_, ?_, ?_⟩ <;> rw [abs_le] <;> constructor <;> linarith [ww.1]

/-- A 16-bit register's numerator is at most 32768 in size, whatever it holds. -/
theorem abs_toInt_16 (v : BitVec 16) : |v.toInt| ≤ 32768 := by
  have h1 := BitVec.le_toInt v
  have h2 := BitVec.toInt_lt (x := v)
  norm_num at h1 h2
  rw [abs_le]
  omega

theorem abs_sm16 (raw : BitVec 16) : |sm16 raw| ≤ 32767 := abs_le.mpr (sm16_bounds raw)

/-- The relative numerators fit their 33-bit registers in every state (R164). -/
theorem relQ_fits (raw q : Quat16) :
    let r := relQ (raw.map sm16) (numerators q)
    (BitVec.ofInt 33 r.w).toInt = r.w ∧ (BitVec.ofInt 33 r.x).toInt = r.x ∧ (BitVec.ofInt 33 r.y).toInt = r.y ∧
      (BitVec.ofInt 33 r.z).toInt = r.z := by
  have h := relQ_bound (raw.map sm16) (numerators q) 32767 32768
    ⟨abs_sm16 _, abs_sm16 _, abs_sm16 _, abs_sm16 _⟩
    ⟨abs_toInt_16 _, abs_toInt_16 _, abs_toInt_16 _, abs_toInt_16 _⟩
  simp only [abs_le] at h
  obtain ⟨hw, hx, hy, hz⟩ := h
  exact ⟨toInt_ofInt_33 _ (by omega), toInt_ofInt_33 _ (by omega), toInt_ofInt_33 _ (by omega),
    toInt_ofInt_33 _ (by omega)⟩

end Sys2Proof.Machine
end

