-- ==== Sys2Proof/Laws/Status.lean ====
section
/-! SUPPORT. Reading the fields of a status word back (spec/10_state.md R28). -/

namespace Sys2Proof.Machine

@[simp] theorem code_ok : StatusCode.code .ok = 0x00#8 := rfl
@[simp] theorem code_warnNoNew : StatusCode.code .warnNoNew = 0x01#8 := rfl
@[simp] theorem code_unseeded : StatusCode.code .unseeded = 0x02#8 := rfl
@[simp] theorem code_malformedLength : StatusCode.code .malformedLength = 0x10#8 := rfl
@[simp] theorem code_malformedOnehot : StatusCode.code .malformedOnehot = 0x11#8 := rfl
@[simp] theorem code_droppedFrame : StatusCode.code .droppedFrame = 0x12#8 := rfl
@[simp] theorem code_illegalCmd : StatusCode.code .illegalCmd = 0x20#8 := rfl
@[simp] theorem code_badFace : StatusCode.code .badFace = 0x21#8 := rfl
@[simp] theorem code_badModifier : StatusCode.code .badModifier = 0x22#8 := rfl
@[simp] theorem code_badGen : StatusCode.code .badGen = 0x23#8 := rfl
@[simp] theorem code_genLocked : StatusCode.code .genLocked = 0x24#8 := rfl
@[simp] theorem code_noGen : StatusCode.code .noGen = 0x25#8 := rfl
@[simp] theorem code_stateInvalid : StatusCode.code .stateInvalid = 0x30#8 := rfl

@[simp] theorem statusWord_code (c : StatusCode) (skip : BitVec 3) (delta : BitVec 8) :
    (statusWord c skip delta).extractLsb' 0 8 = c.code := by
  ext i hi
  simp [statusWord, hi]
  grind

@[simp] theorem statusWord_skip (c : StatusCode) (skip : BitVec 3) (delta : BitVec 8) :
    (statusWord c skip delta).extractLsb' 8 3 = skip := by
  ext i hi
  simp [statusWord, hi]
  grind

@[simp] theorem statusWord_delta (c : StatusCode) (skip : BitVec 3) (delta : BitVec 8) :
    (statusWord c skip delta).extractLsb' 16 8 = delta := by
  ext i hi
  simp [statusWord, hi]
  grind

@[simp] theorem statusWord_reservedLow (c : StatusCode) (skip : BitVec 3) (delta : BitVec 8) :
    (statusWord c skip delta).extractLsb' 11 5 = 0#5 := by
  ext i hi
  simp [statusWord]
  grind

@[simp] theorem statusWord_reservedHigh (c : StatusCode) (skip : BitVec 3) (delta : BitVec 8) :
    (statusWord c skip delta).extractLsb' 24 8 = 0#8 := by
  ext i hi
  simp [statusWord]
  grind

/-- A 32-bit word is the sum of its five fields. -/
theorem toNat_eq_fields (w : BitVec 32) :
    w.toNat = (w.extractLsb' 0 8).toNat + 256 * (w.extractLsb' 8 3).toNat + 2048 * (w.extractLsb' 11 5).toNat +
      65536 * (w.extractLsb' 16 8).toNat + 16777216 * (w.extractLsb' 24 8).toNat := by
  have := w.isLt
  simp only [BitVec.extractLsb'_toNat, Nat.shiftRight_eq_div_pow]
  omega

/-- `CODE | SKIP << 8 | DELTA << 16` as a number. -/
theorem statusWord_toNat (c : StatusCode) (skip : BitVec 3) (delta : BitVec 8) :
    (statusWord c skip delta).toNat = c.code.toNat + 256 * skip.toNat + 65536 * delta.toNat := by
  rw [toNat_eq_fields]
  simp

/-- A raised status word is its code. -/
theorem statusWord_plain (c : StatusCode) : statusWord c 0 0 = c.code.setWidth 32 := by
  cases c <;> decide

/-- The word of a command that ends OK without skipped slots or counter difference is 0. -/
@[simp] theorem statusWord_ok : statusWord .ok 0 0 = 0#32 := by decide

end Sys2Proof.Machine
end

