-- ==== Sys2Proof/Laws/Invariant.lean ====
section
/-! SUPPORT. That each effect leaves the cube valid, the tracker consistent, the quaternions in range and the result
record as spec/10_state.md R26 to R29 say. -/

namespace Sys2Proof.Machine

theorem code_mem (c : StatusCode) : c.code ∈ statusCodes := by cases c <;> decide

theorem quatInRange_zero : quatInRange Result.empty.qabs := by
  refine ⟨?_, ?_, ?_, ?_⟩ <;> constructor <;> decide

theorem quatInRange_identity : quatInRange identityQuat := by
  refine ⟨?_, ?_, ?_, ?_⟩ <;> constructor <;> decide

theorem solved_valid : validState CubeState.solved = true := by decide

theorem empty_mv (i : Nat) (h : i < 7) : Result.empty.mv[i] = 0 := by
  match i, h with
  | 0, _ | 1, _ | 2, _ | 3, _ | 4, _ | 5, _ | 6, _ => rfl

theorem reservedBits_of (r : Result) (c : StatusCode) (skip : BitVec 3) (delta : BitVec 8)
    (h : r.status = statusWord c skip delta) : r.reservedBits = 0 := by
  simp only [Result.reservedBits, h, statusWord_reservedHigh, statusWord_reservedLow]
  decide

/-- A result that is empty but for its status. -/
theorem resultInv_status (c : StatusCode) (skip : BitVec 3) (delta : BitVec 8) :
    ResultInv { Result.empty with status := statusWord c skip delta } where
  code := by simpa [Result.code] using code_mem c
  reserved := reservedBits_of _ c skip delta rfl
  unusedMoves := fun i h _ => empty_mv i h
  oneMove := fun h => by simp [Result.empty] at h
  noMoves := fun _ _ => rfl
  noHalf := fun i h => .inl (by simp only [empty_mv i h]; decide)
  tag := fun _ => rfl
  orient := fun _ => ⟨rfl, rfl, rfl, rfl⟩
  qabs := quatInRange_zero
  recon := fun _ => ⟨rfl, rfl⟩
  warn := fun h => by simp [Result.empty] at h

theorem resultInv_unknown (tag : Byte) :
    ResultInv { Result.empty with status := statusWord .ok 0 0, kind := .unknown, tag := tag } :=
  { resultInv_status .ok 0 0 with
    oneMove := fun h => by simp at h
    noMoves := fun _ _ => rfl
    tag := fun h => absurd rfl h
    orient := fun _ => ⟨rfl, rfl, rfl, rfl⟩
    recon := fun _ => ⟨rfl, rfl⟩
    warn := fun h => by simp at h }

theorem resultInv_facelets : ResultInv { Result.empty with status := statusWord .ok 0 0, kind := .facelets } :=
  { resultInv_status .ok 0 0 with
    oneMove := fun h => by simp at h
    noMoves := fun _ _ => rfl
    tag := fun _ => rfl
    orient := fun _ => ⟨rfl, rfl, rfl, rfl⟩
    recon := fun _ => ⟨rfl, rfl⟩
    warn := fun h => by simp at h }

theorem resultInv_recon (a b : CubeState) (ha : validState a = true) (hb : validState b = true) (hab : a ≠ b) :
    ResultInv { Result.empty with
      status := statusWord .ok 0 0, kind := .reconWarn, expState := a, actState := b } :=
  { resultInv_status .ok 0 0 with
    oneMove := fun h => by simp at h
    noMoves := fun _ _ => rfl
    tag := fun _ => rfl
    orient := fun _ => ⟨rfl, rfl, rfl, rfl⟩
    recon := fun h => absurd rfl h
    warn := fun _ => ⟨ha, hb, hab⟩ }

theorem resultInv_orient (raw : Quat16) (q : Quat16) (rel : Quat33) (v : Velocity) (hq : quatInRange q) :
    ResultInv { Result.empty with
      status := statusWord .ok 0 0, kind := .orient, qraw := raw, qabs := q, qrel := rel, vel := v } :=
  { resultInv_status .ok 0 0 with
    oneMove := fun h => by simp at h
    noMoves := fun _ _ => rfl
    tag := fun _ => rfl
    orient := fun h => absurd rfl h
    qabs := hq
    recon := fun _ => ⟨rfl, rfl⟩
    warn := fun h => by simp at h }

theorem dirToMod_ne_half (b : Bool) (d : BitVec 2) : dirToMod b d ≠ .half := by
  unfold dirToMod
  split_ifs <;> decide

theorem slotMove_ne_half (slot : Slot) (m : Face × Modifier) (h : slotMove slot = some m) : m.2 ≠ .half := by
  unfold slotMove at h
  split at h
  · cases h
    simp only [slotModifier]
    split_ifs <;> simp
  · cases h

/-- The modifier bits of a move code that is no half turn. -/
theorem moveCode_modifier (face : Face) (mod : Modifier) (h : mod ≠ .half) :
    (moveCode face mod).extractLsb' 3 2 = 0#2 ∨ (moveCode face mod).extractLsb' 3 2 = 1#2 := by
  cases face <;> cases mod <;> simp_all <;> decide

theorem getElem_move (m : MoveCode) (i : Nat) (h : i < 7) :
    (#v[m, 0, 0, 0, 0, 0, 0] : Vector MoveCode 7)[i] = if i = 0 then m else 0 := by
  match i, h with
  | 0, _ | 1, _ | 2, _ | 3, _ | 4, _ | 5, _ | 6, _ => rfl

theorem resultInv_move (face : Face) (mod : Modifier) (h : mod ≠ .half) :
    ResultInv { Result.empty with
      status := statusWord .ok 0 0, kind := .move, n := 1, mv := #v[moveCode face mod, 0, 0, 0, 0, 0, 0] } :=
  { resultInv_status .ok 0 0 with
    unusedMoves := fun i hi hn => by
      have : i ≠ 0 := by rintro rfl; simp at hn
      exact (getElem_move _ i hi).trans (if_neg this)
    oneMove := fun _ => rfl
    noMoves := fun h => absurd rfl h
    noHalf := fun i hi => by
      rw [getElem_move]
      split
      · exact moveCode_modifier face mod h
      · exact .inl (by decide)
    tag := fun _ => rfl
    orient := fun _ => ⟨rfl, rfl, rfl, rfl⟩
    recon := fun _ => ⟨rfl, rfl⟩
    warn := fun h => by simp at h }

/-- A batch's record: the move codes of the slots read, then zeros. -/
theorem resultInv_batch (st : BitVec 32) (ms : List (Face × Modifier)) (mv : Vector MoveCode 7)
    (hst : ∃ skip delta, st = statusWord .ok skip delta) (hms : ∀ m ∈ ms, m.2 ≠ .half) (hlen : ms.length ≤ 7)
    (hmv : mv.toList = ms.map (fun m => moveCode m.1 m.2) ++ List.replicate (7 - ms.length) 0) :
    ResultInv { Result.empty with status := st, kind := .moveBatch, n := BitVec.ofNat 3 ms.length, mv := mv } := by
  have hget : ∀ i (hi : i < 7), mv[i] = if h : i < ms.length then moveCode ms[i].1 ms[i].2 else 0 := fun i hi => by
    have : mv[i] = mv.toList[i]'(by simpa using hi) := by simp
    rw [this]
    simp only [hmv, List.getElem_append, List.length_map]
    split <;> simp
  obtain ⟨skip, delta, rfl⟩ := hst
  exact
  { resultInv_status .ok skip delta with
    unusedMoves := fun i hi hn => by
      have : ¬ i < ms.length := by
        simp only [BitVec.toNat_ofNat] at hn
        omega
      simp [hget i hi, this]
    oneMove := fun h => by simp at h
    noMoves := fun _ h => absurd rfl h
    noHalf := fun i hi => by
      simp only [hget i hi]
      split
      · exact moveCode_modifier _ _ (hms _ (List.getElem_mem _))
      · exact .inl (by decide)
    tag := fun _ => rfl
    orient := fun _ => ⟨rfl, rfl, rfl, rfl⟩
    recon := fun _ => ⟨rfl, rfl⟩
    warn := fun h => by simp at h }

/-- What a seeded batch with new moves does, in terms of the moves read. -/
theorem seededBatch_new (c : Byte) (slots : Vector Slot 7) (s : State)
    (h : pendingCount (counterDelta c s.trkLast) ≠ 0) :
    let read := readOrder slots (pendingCount (counterDelta c s.trkLast))
    let ms := movesRead read
    ∃ mv : Vector MoveCode 7,
      mv.toList = ms.map (fun m => moveCode m.1 m.2) ++ List.replicate (7 - ms.length) 0 ∧ ms.length ≤ 7 ∧
      seededBatch c slots s = { s with
        trkLast := c
        cube := applyMoves Config.moveTables ms s.cube
        result := { Result.empty with
          status := statusWord .ok (BitVec.ofNat 3 (read.length - ms.length)) (counterDelta c s.trkLast)
          kind := .moveBatch
          n := BitVec.ofNat 3 ms.length
          mv := mv } } := by
  intro read ms
  have hlen : ms.length ≤ 7 :=
    (movesRead_length_le _).trans ((readOrder_length _ _).trans_le (Nat.min_le_right ..))
  refine ⟨(batchLoop Config.moveTables read { cube := s.cube, mv := Result.empty.mv, n := 0, skip := 0 }).mv, ?_, hlen, ?_⟩
  · rw [batchLoop_mv _ _ _ (by simpa [read, ms] using hlen)]
    have hz : Result.empty.mv.toList = List.replicate 7 0 := rfl
    dsimp only
    rw [hz, List.take_zero, List.nil_append, List.drop_replicate, Nat.zero_add]
  · simp only [seededBatch, h, if_false]
    rw [batchLoop_cube, batchLoop_n, batchLoop_skip]
    simp [read, ms]

/-- A seeded batch without new moves. -/
theorem seededBatch_none (c : Byte) (slots : Vector Slot 7) (s : State)
    (h : pendingCount (counterDelta c s.trkLast) = 0) :
    seededBatch c slots s = raiseStatus .warnNoNew s ∧ c = s.trkLast := by
  have hd : counterDelta c s.trkLast = 0 := by
    have : (counterDelta c s.trkLast).toNat = 0 := by
      simp only [pendingCount, Config.batchCapacity] at h
      omega
    exact BitVec.eq_of_toNat_eq (by simpa using this)
  have hc : c = s.trkLast := by
    have := congrArg (· + s.trkLast) hd
    simpa [counterDelta] using this
  refine ⟨?_, hc⟩
  have : pendingCount 0 = 0 := rfl
  simp only [seededBatch, hd, this, if_true]
  subst hc
  rfl

theorem movesRead_ne_half (read : List Slot) : ∀ m ∈ movesRead read, m.2 ≠ .half := by
  intro m hm
  obtain ⟨slot, -, h⟩ := List.mem_filterMap.mp hm
  exact slotMove_ne_half slot m h

theorem applyMoves_valid (M : MoveTables) (ms : List (Face × Modifier)) (c : CubeState) (hc : validState c = true) :
    validState (applyMoves M ms c) = true := by
  induction ms generalizing c with
  | nil => exact hc
  | cons m ms ih => exact ih _ (applyMove_valid M m.1 m.2 c hc)

/-- Every effect keeps the cube valid (10_state.md R24). -/
theorem Effect.cube_valid {s t : State} (h : Effect s t) (hs : validState s.cube = true) : validState t.cube = true := by
  cases h with
  | raised => exact hs
  | done => exact hs
  | reset => exact solved_valid
  | select => exact hs
  | turned face m => exact applyMove_valid _ face m _ hs
  | matched c hc => simpa [← hc] using hs
  | adopted c hv => exact hv
  | sampled => exact hs
  | unknown => exact hs
  | moved d o k hk => simpa only [decodeOneHotMove, hk] using applyMove_valid _ _ _ _ hs
  | facelets => simpa using hs
  | batch c slots =>
    by_cases hp : pendingCount (counterDelta c s.trkLast) = 0
    · simpa [(seededBatch_none c slots s hp).1] using hs
    · obtain ⟨mv, -, -, he⟩ := seededBatch_new c slots s hp
      rw [he]
      exact applyMoves_valid _ _ _ hs

/-- Every effect leaves a result record as 10_state.md R26 to R29 say. -/
theorem Effect.result_inv {s t : State} (h : Effect s t) (hs : validState s.cube = true) : ResultInv t.result := by
  cases h with
  | raised c => exact resultInv_status c 0 0
  | done => exact resultInv_status .ok 0 0
  | reset => exact resultInv_status .ok 0 0
  | select => exact resultInv_status .ok 0 0
  | turned => exact resultInv_status .ok 0 0
  | matched => exact resultInv_status .ok 0 0
  | adopted c hv hc => exact resultInv_recon _ _ hs hv hc
  | sampled raw v => exact resultInv_orient _ _ _ _ (quatInRange_sample raw)
  | unknown tag => exact resultInv_unknown tag
  | moved d o k hk => simpa only [decodeOneHotMove, hk] using resultInv_move _ _ (dirToMod_ne_half _ d)
  | facelets => rw [snapshot_result]; exact resultInv_facelets
  | batch c slots =>
    by_cases hp : pendingCount (counterDelta c s.trkLast) = 0
    · rw [(seededBatch_none c slots s hp).1]
      exact resultInv_status .warnNoNew 0 0
    · obtain ⟨mv, hmv, hlen, he⟩ := seededBatch_new c slots s hp
      rw [he]
      exact resultInv_batch _ _ mv ⟨_, _, rfl⟩ (movesRead_ne_half _) hlen hmv

/-- The status word an effect leaves: a code other than OK and WARN_NO_NEW is raised (60_exceptions.md R203, R204); SKIP
and DELTA belong to a seeded batch (10_state.md R28). -/
theorem Effect.status {s t : State} (h : Effect s t) :
    ∃ c skip delta, t.result.status = statusWord c skip delta ∧
      (c ≠ .ok → c ≠ .warnNoNew → t = raiseStatus c s) ∧
      (skip ≠ 0 → t.result.kind = .moveBatch) ∧
      (delta ≠ 0 → t.result.kind = .moveBatch ∧ s.trkSeeded = true ∧ delta = counterDelta t.trkLast s.trkLast) := by
  have plain : ∀ u : State, u.result.status = statusWord .ok 0 0 →
      ∃ c skip delta, u.result.status = statusWord c skip delta ∧ (c ≠ .ok → c ≠ .warnNoNew → u = raiseStatus c s) ∧
        (skip ≠ 0 → u.result.kind = .moveBatch) ∧
        (delta ≠ 0 → u.result.kind = .moveBatch ∧ s.trkSeeded = true ∧ delta = counterDelta u.trkLast s.trkLast) :=
    fun u hu =>
    ⟨.ok, 0, 0, hu, fun h => absurd rfl h, fun h => absurd rfl h, fun h => absurd rfl h⟩
  cases h with
  | raised c => exact ⟨c, 0, 0, rfl, fun _ _ => rfl, fun h => absurd rfl h, fun h => absurd rfl h⟩
  | done => exact plain _ rfl
  | reset => exact plain _ rfl
  | select => exact plain _ rfl
  | turned => exact plain _ rfl
  | matched => exact plain _ rfl
  | adopted => exact plain _ rfl
  | sampled => exact plain _ rfl
  | unknown => exact plain _ rfl
  | moved d o k hk => exact plain _ (by simp only [decodeOneHotMove, hk])
  | facelets => exact plain _ (by rw [snapshot_result])
  | batch c slots hs =>
    by_cases hp : pendingCount (counterDelta c s.trkLast) = 0
    · rw [(seededBatch_none c slots s hp).1]
      exact ⟨.warnNoNew, 0, 0, rfl, fun _ h => absurd rfl h, fun h => absurd rfl h, fun h => absurd rfl h⟩
    · obtain ⟨mv, -, -, he⟩ := seededBatch_new c slots s hp
      rw [he]
      exact ⟨.ok, _, _, rfl, fun h => absurd rfl h, fun _ => rfl, fun _ => ⟨rfl, hs, rfl⟩⟩

end Sys2Proof.Machine
end

