-- ==== Sys2Proof/Laws/Payload.lean ====
section
/-! SUPPORT. Reading fields of payloads: bit by bit, from a payload given as one bit string, and through the encoder's
placement of fields (spec/20_memory.md R51, R52). -/

namespace Sys2Proof

/-- Bit `i` of a field is the payload bit `w - 1 - i` places into its window. -/
theorem field_getLsbD (P : List Byte) (off w i : Nat) (hi : i < w) :
    (field P off w).getLsbD i = payloadBit P (off + (w - 1 - i)) := by
  induction w generalizing off with
  | zero => omega
  | succ w ih =>
    rw [field, BitVec.getLsbD_cons]
    split
    · next h => subst h; simp
    · next h => rw [ih (off + 1) (by omega)]; congr 1; omega

/-- A field depends on the bits of its window only. -/
theorem field_congr (P Q : List Byte) (off w : Nat)
    (h : ∀ k, off ≤ k → k < off + w → payloadBit P k = payloadBit Q k) : field P off w = field Q off w := by
  ext i hi
  rw [← BitVec.getLsbD_eq_getElem, ← BitVec.getLsbD_eq_getElem, field_getLsbD _ _ _ _ hi, field_getLsbD _ _ _ _ hi]
  exact h _ (by omega) (by omega)

@[simp] theorem payloadOf_length (bits : BitVec 160) : (payloadOf bits).length = 20 := by simp [payloadOf]

/-- A field of a payload given as one bit string is that window of the string. -/
theorem field_payloadOf (bits : BitVec 160) (off w : Nat) (h : off + w ≤ 160) :
    field (payloadOf bits) off w = bits.extractLsb' (160 - off - w) w := by
  ext i hi
  rw [← BitVec.getLsbD_eq_getElem, field_getLsbD _ _ _ _ hi]
  have hk : (off + (w - 1 - i)) / 8 < 20 := by omega
  have hb : 7 - (off + (w - 1 - i)) % 8 < 8 := by omega
  simp only [payloadBit, payloadByte, payloadOf, List.getD_eq_getElem?_getD, List.getElem?_map, List.getElem?_range hk,
    Option.map_some, Option.getD_some, BitVec.getLsbD_extractLsb', hb, decide_true, Bool.true_and,
    BitVec.getElem_extractLsb']
  congr 1
  omega

/-! ### Fields as bytes and parts of bytes -/

/-- Eight bits from a byte boundary are that byte. -/
theorem field_byte (P : List Byte) (k : Nat) : field P (8 * k) 8 = P.getD k 0 := by
  ext i hi
  rw [← BitVec.getLsbD_eq_getElem, field_getLsbD _ _ _ _ hi, payloadBit, payloadByte, ← BitVec.getLsbD_eq_getElem]
  rw [show (8 * k + (8 - 1 - i)) / 8 = k by omega, show 7 - (8 * k + (8 - 1 - i)) % 8 = i by omega]

/-- A field inside a byte is that part of the byte. -/
theorem field_part (P : List Byte) (k lo w : Nat) (h : lo + w ≤ 8) :
    field P (8 * k + (8 - lo - w)) w = (P.getD k 0).extractLsb' lo w := by
  ext i hi
  rw [← BitVec.getLsbD_eq_getElem, field_getLsbD _ _ _ _ hi, payloadBit, payloadByte, BitVec.getElem_extractLsb']
  rw [show (8 * k + (8 - lo - w) + (w - 1 - i)) / 8 = k by omega,
    show 7 - (8 * k + (8 - lo - w) + (w - 1 - i)) % 8 = lo + i by omega]

/-- A field is its first bits before its last. -/
theorem field_append (P : List Byte) (off a b : Nat) : field P off (a + b) = field P off a ++ field P (off + a) b := by
  ext i hi
  rw [← BitVec.getLsbD_eq_getElem, field_getLsbD _ _ _ _ hi, BitVec.getElem_append]
  split
  · rw [← BitVec.getLsbD_eq_getElem, field_getLsbD _ _ _ _ (by assumption)]
    congr 1
    omega
  · rw [← BitVec.getLsbD_eq_getElem, field_getLsbD _ _ _ _ (by omega)]
    congr 1
    omega

/-! ### Fields through the encoder -/

theorem field_payloadOf_or (a b : BitVec 160) (off w : Nat) (h : off + w ≤ 160) :
    field (payloadOf (a ||| b)) off w = field (payloadOf a) off w ||| field (payloadOf b) off w := by
  simp only [field_payloadOf _ _ _ h]
  ext i hi
  simp

/-- A field read where it was placed. -/
theorem field_placeField_same (off : Nat) {w : Nat} (v : BitVec w) (h : off + w ≤ 160) :
    field (payloadOf (placeField off v)) off w = v := by
  rw [field_payloadOf _ _ _ h]
  ext i hi
  simp only [placeField, BitVec.getElem_extractLsb', BitVec.getLsbD_shiftLeft, BitVec.getLsbD_setWidth]
  simp [show 160 - off - w + i < 160 by omega, show i < 160 by omega, BitVec.getLsbD_eq_getElem hi]

/-- A field read beside where one was placed. -/
theorem field_placeField_disjoint (off : Nat) {w : Nat} (v : BitVec w) (off' w' : Nat) (h' : off' + w' ≤ 160)
    (h : off + w ≤ 160) (hd : off + w ≤ off' ∨ off' + w' ≤ off) :
    field (payloadOf (placeField off v)) off' w' = 0#w' := by
  rw [field_payloadOf _ _ _ h']
  ext i hi
  simp only [placeField, BitVec.getElem_extractLsb', BitVec.getLsbD_shiftLeft, BitVec.getLsbD_setWidth,
    BitVec.getElem_zero]
  obtain hd | hd := hd
  · simp
    intros
    omega
  · simp
    intros
    exact BitVec.getLsbD_of_ge _ _ (by omega)

end Sys2Proof
end

