-- ==== Sys2Proof/Laws/PerInstr.lean ====
section
/-! SUPPORT. Said of every instruction as syntax: its record's command word is a word of its row of
spec/opcode_table.json (a packet's record is a DECODE). -/

namespace Sys2Proof.Laws.EncodedWord

/-- The mask of a row, or of DECODE's row for a packet. -/
def rowMask : Instr → CmdWord
  | .nop | .reset | .recon _ | .orient _ => 0xFFFFFFFF#32
  | .setgen _ => 0xFFFFF8FF#32
  | .apply _ _ => 0xFFFFE0FF#32
  | .decode _ | .g4Move _ _ | .g4Orient _ _ | .g4Unknown _ | .g3Dropped _ _ _ | .g3MoveA _ _ | .g3MoveB _ _
  | .g3Unknown _ _ _ | .g2Snapshot _ | .g2Batch _ _ | .g2Orient _ _ | .g2Unknown _ => 0xFFFF00FF#32

/-- The match of a row, or of DECODE's row for a packet. -/
def rowMatch : Instr → CmdWord
  | .nop => 0x00000000#32
  | .reset => 0x00000001#32
  | .setgen _ => 0x00000002#32
  | .apply _ _ => 0x00000020#32
  | .recon _ => 0x00000030#32
  | .orient _ => 0x00000040#32
  | .decode _ | .g4Move _ _ | .g4Orient _ _ | .g4Unknown _ | .g3Dropped _ _ _ | .g3MoveA _ _ | .g3MoveB _ _
  | .g3Unknown _ _ _ | .g2Snapshot _ | .g2Batch _ _ | .g2Orient _ _ | .g2Unknown _ => 0x00000010#32

/-- The command word of a well-formed instruction matches its row. -/
def Statement (i : Instr) : Prop := i.wellFormed = true → (encode i).word &&& rowMask i = rowMatch i

theorem decodeCommand_word (P : List Byte) : (decodeCommand P).word &&& 0xFFFF00FF#32 = 0x00000010#32 := by
  simp only [decodeCommand]
  generalize BitVec.ofNat 8 P.length = n
  revert n
  decide

theorem nop : Statement .nop := fun _ => by decide

theorem reset : Statement .reset := fun _ => by decide

theorem setgen (g : BitVec 3) : Statement (.setgen g) := fun _ => by
  revert g
  decide

theorem decode (payload : List Byte) : Statement (.decode payload) := fun _ => decodeCommand_word payload

theorem apply (face : BitVec 3) (mod : BitVec 2) : Statement (.apply face mod) := fun _ => by
  revert face mod
  decide

theorem recon (reported : CubeState) : Statement (.recon reported) := fun _ => by
  show 0x00000030#32 &&& 0xFFFFFFFF#32 = 0x00000030#32
  decide

theorem orient (raw : Quat16) : Statement (.orient raw) := fun _ => by
  show 0x00000040#32 &&& 0xFFFFFFFF#32 = 0x00000040#32
  decide

theorem g4Move (dir : BitVec 2) (onehot : BitVec 6) : Statement (.g4Move dir onehot) := fun _ => decodeCommand_word _

theorem g4Orient (raw : Quat16) (vel : Velocity) : Statement (.g4Orient raw vel) := fun _ => decodeCommand_word _

theorem g4Unknown (tag : Byte) : Statement (.g4Unknown tag) := fun _ => decodeCommand_word _

theorem g3Dropped (magic tag b2 : Byte) : Statement (.g3Dropped magic tag b2) := fun _ => decodeCommand_word _

theorem g3MoveA (dir : BitVec 2) (onehot : BitVec 6) : Statement (.g3MoveA dir onehot) := fun _ => decodeCommand_word _

theorem g3MoveB (dir : BitVec 2) (onehot : BitVec 6) : Statement (.g3MoveB dir onehot) := fun _ => decodeCommand_word _

theorem g3Unknown (magic tag b2 : Byte) : Statement (.g3Unknown magic tag b2) := fun _ => decodeCommand_word _

theorem g2Snapshot (counter : Byte) : Statement (.g2Snapshot counter) := fun _ => decodeCommand_word _

theorem g2Batch (counter : Byte) (slots : Vector Slot 7) : Statement (.g2Batch counter slots) := fun _ =>
  decodeCommand_word _

theorem g2Orient (raw : Quat16) (vel : Velocity) : Statement (.g2Orient raw vel) := fun _ => decodeCommand_word _

theorem g2Unknown (tag : BitVec 4) : Statement (.g2Unknown tag) := fun _ => decodeCommand_word _

end Sys2Proof.Laws.EncodedWord
end

