-- ==== Sys2Proof/Laws/Words.lean ====
section
/-! SUPPORT. Command words against the match and mask of their row (spec/opcode_table.json, spec/30_encoding.md R72 to
R75), and the decoder on each row. -/

namespace Sys2Proof

/-- The mask of a row whose bits 8 to `k-1` are fields. -/
def rowMask (k : Nat) : BitVec 32 := BitVec.allOnes 32 <<< k ||| 0xFF#32

theorem rowMask_getLsbD (k i : Nat) (hi : i < 32) : (rowMask k).getLsbD i = (decide (k ≤ i) || decide (i < 8)) := by
  have hFF : (0xFF#32).getLsbD i = decide (i < 8) := by
    have : (0xFF#32) = (BitVec.allOnes 8).setWidth 32 := by decide
    simp only [this, BitVec.getLsbD_setWidth, BitVec.getLsbD_allOnes, hi, decide_true, Bool.true_and]
  simp only [rowMask, BitVec.getLsbD_or, BitVec.getLsbD_shiftLeft, BitVec.getLsbD_allOnes, hFF, hi, decide_true,
    Bool.true_and, show i - k < 32 by omega, Bool.and_true]
  by_cases h : k ≤ i <;> simp [h, Nat.not_lt.mpr, Nat.lt_of_not_le]

/-- A word is of a row when its opcode is the row's and the reserved bits are clear. -/
theorem row_iff (w : CmdWord) (opc : BitVec 8) (k : Nat) (hk : 8 ≤ k) :
    w &&& rowMask k = opc.setWidth 32 ↔ w.extractLsb' 0 8 = opc ∧ w >>> k = 0#32 := by
  constructor
  · intro h
    have hb : ∀ i, i < 32 → (w.getLsbD i && (decide (k ≤ i) || decide (i < 8))) = opc.getLsbD i := fun i hi => by
      have := congrArg (fun v => BitVec.getLsbD v i) h
      simpa only [BitVec.getLsbD_and, rowMask_getLsbD k i hi, BitVec.getLsbD_setWidth, hi, decide_true,
        Bool.true_and] using this
    constructor
    · ext i hi
      have := hb i (by omega)
      simp only [hi, decide_true, Bool.or_true, Bool.and_true] at this
      rw [BitVec.getElem_extractLsb', Nat.zero_add, this, BitVec.getLsbD_eq_getElem]
    · ext i hi
      simp only [BitVec.getElem_ushiftRight, BitVec.getElem_zero]
      by_cases h32 : k + i < 32
      · have := hb (k + i) h32
        rw [BitVec.getLsbD_of_ge opc (k + i) (by omega)] at this
        simpa using this
      · exact BitVec.getLsbD_of_ge _ _ (by omega)
  · rintro ⟨h1, h2⟩
    ext i hi
    rw [← BitVec.getLsbD_eq_getElem, ← BitVec.getLsbD_eq_getElem, BitVec.getLsbD_and, rowMask_getLsbD k i hi,
      BitVec.getLsbD_setWidth]
    by_cases h8 : i < 8
    · have : w.getLsbD i = opc.getLsbD i := by
        rw [← h1]
        simp [h8]
      rw [this]
      simp only [h8, hi, decide_true, Bool.or_true, Bool.and_true, Bool.true_and]
    · rw [BitVec.getLsbD_of_ge opc i (by omega)]
      by_cases hki : k ≤ i
      · have : (w >>> k).getLsbD (i - k) = false := by rw [h2]; simp
        simp only [BitVec.getLsbD_ushiftRight, show k + (i - k) = i by omega] at this
        simp [this]
      · simp [h8, hki]

theorem row_setgen (w : CmdWord) : w &&& 0xFFFFF8FF#32 = 0x00000002#32 ↔ opcodeField w = 0x02#8 ∧ w >>> 11 = 0#32 :=
  row_iff w 0x02#8 11 (by decide)

theorem row_decode (w : CmdWord) : w &&& 0xFFFF00FF#32 = 0x00000010#32 ↔ opcodeField w = 0x10#8 ∧ w >>> 16 = 0#32 :=
  row_iff w 0x10#8 16 (by decide)

theorem row_apply (w : CmdWord) : w &&& 0xFFFFE0FF#32 = 0x00000020#32 ↔ opcodeField w = 0x20#8 ∧ w >>> 13 = 0#32 :=
  row_iff w 0x20#8 13 (by decide)

/-- A row without fields is one word. -/
theorem row_plain (w : CmdWord) (opc : BitVec 8) : w = opc.setWidth 32 ↔ opcodeField w = opc ∧ w >>> 8 = 0#32 := by
  have h : w &&& rowMask 8 = w := by
    have : rowMask 8 = BitVec.allOnes 32 := by decide
    rw [this, BitVec.and_allOnes]
  conv_lhs => rw [← h]
  exact row_iff w opc 8 (by decide)

/-- The record of an opcode whose reserved bits are not clear. -/
theorem decodeRecord_reserved (w : CmdWord) (b : OperandBlock) (opc : BitVec 8) (k : Nat)
    (hrow : (opc, k) ∈ [(0x00#8, 8), (0x01#8, 8), (0x02#8, 11), (0x10#8, 16), (0x20#8, 13), (0x30#8, 8), (0x40#8, 8)])
    (ho : opcodeField w = opc) (hk : w >>> k ≠ 0#32) :
    decodeRecord { word := w, block := b } = .error .reservedBits := by
  simp only [List.mem_cons, Prod.mk.injEq, List.not_mem_nil, or_false] at hrow
  obtain ⟨rfl, rfl⟩ | ⟨rfl, rfl⟩ | ⟨rfl, rfl⟩ | ⟨rfl, rfl⟩ | ⟨rfl, rfl⟩ | ⟨rfl, rfl⟩ | ⟨rfl, rfl⟩ := hrow <;>
    simp [decodeRecord, ho, whenReservedClear, hk]

theorem decodeRecord_nop (w : CmdWord) (b : OperandBlock) (ho : opcodeField w = 0x00#8) (hk : w >>> 8 = 0#32) :
    decodeRecord { word := w, block := b } = withNoBlock .nop b := by
  simp [decodeRecord, ho, whenReservedClear, hk]

theorem decodeRecord_reset (w : CmdWord) (b : OperandBlock) (ho : opcodeField w = 0x01#8) (hk : w >>> 8 = 0#32) :
    decodeRecord { word := w, block := b } = withNoBlock .reset b := by
  simp [decodeRecord, ho, whenReservedClear, hk]

theorem decodeRecord_setgen (w : CmdWord) (b : OperandBlock) (ho : opcodeField w = 0x02#8) (hk : w >>> 11 = 0#32) :
    decodeRecord { word := w, block := b } = withNoBlock (.setgen (genField w)) b := by
  simp [decodeRecord, ho, whenReservedClear, hk]

theorem decodeRecord_decode (w : CmdWord) (b : OperandBlock) (ho : opcodeField w = 0x10#8) (hk : w >>> 16 = 0#32) :
    decodeRecord { word := w, block := b } = withPayload (lenField w) b := by
  simp [decodeRecord, ho, whenReservedClear, hk]

theorem decodeRecord_apply (w : CmdWord) (b : OperandBlock) (ho : opcodeField w = 0x20#8) (hk : w >>> 13 = 0#32) :
    decodeRecord { word := w, block := b } = withNoBlock (.apply (faceField w) (modField w)) b := by
  simp [decodeRecord, ho, whenReservedClear, hk]

theorem decodeRecord_recon (w : CmdWord) (b : OperandBlock) (ho : opcodeField w = 0x30#8) (hk : w >>> 8 = 0#32) :
    decodeRecord { word := w, block := b } = withState b := by
  simp [decodeRecord, ho, whenReservedClear, hk]

theorem decodeRecord_orient (w : CmdWord) (b : OperandBlock) (ho : opcodeField w = 0x40#8) (hk : w >>> 8 = 0#32) :
    decodeRecord { word := w, block := b } = withQuaternion b := by
  simp [decodeRecord, ho, whenReservedClear, hk]

theorem decodeRecord_unassigned (w : CmdWord) (b : OperandBlock)
    (h : opcodeField w ∉ [0x00#8, 0x01#8, 0x02#8, 0x10#8, 0x20#8, 0x30#8, 0x40#8]) :
    decodeRecord { word := w, block := b } = .error .unassignedOpcode := by
  simp only [List.mem_cons, List.not_mem_nil, or_false, not_or] at h
  simp [decodeRecord, h]

end Sys2Proof
end

