-- ==== Sys2Proof/Tests/Slice0.lean ====
section
/-! SUPPORT. The model's own tests. Expected values are those of spec/95_test_vectors.md (the section or vector is named)
or written out by hand from the rules named; then the concrete states and operands that meet the hypotheses of the
obligations. -/

namespace Sys2Proof.Tests

open Sys2Proof.Machine Sys2Proof.Spec

/-! ### Helpers -/

/-- The next state of an outcome; the reset state where there is none. -/
def after (o : Host.Outcome State Fault Refusal) : State :=
  match o with
  | .next t => t
  | .fault _ => State.reset
  | .refused _ => State.reset

/-- The state after one presented record. -/
def shown (s : State) (w : CmdWord) (b : OperandBlock) : State := after (step (s.present { word := w, block := b }))

/-- A payload of 20 bytes whose rest is 0, as the block of `DECODE` 0x00001410. -/
def bytes (first : List Byte) : OperandBlock := .payload (first ++ List.replicate (20 - first.length) 0)

/-- Reset with a generation selected. -/
def gen4 : State := { State.reset with gen := .gen4 }
def gen3 : State := { State.reset with gen := .gen3 }
def gen2 : State := { State.reset with gen := .gen2 }

/-- Reset with Gen2 selected and the tracker at `Seeded(c)`. -/
def seeded (c : Byte) : State := { gen2 with trkSeeded := true, trkLast := c }

/-- A cube state equal to solved but for its corners. -/
def corners (cp : Vector (BitVec 3) 8) (co : Vector (BitVec 2) 8) : CubeState :=
  { CubeState.solved with cp := cp, co := co }

/-! ### Well-formedness refuses -/

theorem test_wf_len (P Q : List Byte) (hP : P.length = 256) (hQ : Q.length = 255) :
    (Instr.decode P).wellFormed = false ∧ (Instr.decode Q).wellFormed = true := by simp [Instr.wellFormed, hP, hQ]

theorem test_wf_g4Unknown : (Instr.g4Unknown 0x01).wellFormed = false ∧ (Instr.g4Unknown 0xEC).wellFormed = false ∧
    (Instr.g4Unknown 0x02).wellFormed = true := by decide

theorem test_wf_g3Dropped : (Instr.g3Dropped 0x55 1 7).wellFormed = false ∧
    (Instr.g3Dropped 0x00 1 0).wellFormed = false ∧ (Instr.g3Dropped 0x54 2 0xFF).wellFormed = true := by decide

theorem test_wf_g3Unknown : (Instr.g3Unknown 0x55 0x01 0).wellFormed = false ∧
    (Instr.g3Unknown 0x00 0x02 7).wellFormed = false ∧ (Instr.g3Unknown 0x55 0x02 7).wellFormed = true := by decide

theorem test_wf_g2Unknown : (Instr.g2Unknown 1).wellFormed = false ∧ (Instr.g2Unknown 2).wellFormed = false ∧
    (Instr.g2Unknown 4).wellFormed = false ∧ (Instr.g2Unknown 0xF).wellFormed = true := by decide

/-! ### Fields (95_test_vectors.md 2.1) -/

theorem test_field_2_1 : field [0x4F, 0xA0] 0 4 = 0x4#4 ∧ field [0x4F, 0xA0] 4 8 = 250#8 ∧
    field [0x4F, 0xA0] 0 12 = 0x4FA#12 ∧ field [0x4F, 0xA0] 7 2 = 3#2 ∧ field [0x4F, 0xA0, 0x00] 12 5 = 0#5 := by decide

/-! ### Decoding (95_test_vectors.md 2.2, 2.5 to 2.7) -/

theorem test_decode_nop : decodeRecord { word := 0x00000000#32, block := .none } = .ok .nop ∧
    decodeRecord { word := 0x00000100#32, block := .none } = .error .reservedBits := by decide

theorem test_decode_reset : decodeRecord { word := 0x00000001#32, block := .none } = .ok .reset ∧
    decodeRecord { word := 0x00000003#32, block := .none } = .error .unassignedOpcode := by decide

theorem test_decode_setgen : decodeRecord { word := 0x00000202#32, block := .none } = .ok (.setgen 2) ∧
    decodeRecord { word := 0x00000502#32, block := .none } = .ok (.setgen 5) ∧
    decodeRecord { word := 0x00000802#32, block := .none } = .error .reservedBits := by decide

theorem test_decode_decode :
    decodeRecord { word := 0x00001410#32, block := bytes [0x4F] } = .ok (.decode (0x4F :: List.replicate 19 0)) ∧
    decodeRecord { word := 0x00001310#32, block := bytes [0x4F] } = .error .payloadLength ∧
    decodeRecord { word := 0x00011410#32, block := bytes [0x4F] } = .error .reservedBits := by decide

theorem test_decode_apply : decodeRecord { word := 0x00000920#32, block := .none } = .ok (.apply 1 1) ∧
    decodeRecord { word := 0x00001520#32, block := .none } = .ok (.apply 5 2) ∧
    decodeRecord { word := 0x00002020#32, block := .none } = .error .reservedBits := by decide

theorem test_decode_recon :
    decodeRecord { word := 0x00000030#32, block := .state CubeState.solved } = .ok (.recon CubeState.solved) ∧
    decodeRecord { word := 0x00000130#32, block := .state CubeState.solved } = .error .reservedBits ∧
    decodeRecord { word := 0x00000030#32, block := .none } = .error .operandKind := by decide

theorem test_decode_orient :
    decodeRecord { word := 0x00000040#32, block := .quaternion ⟨0x7FFF, 0, 0, 0⟩ } = .ok (.orient ⟨0x7FFF, 0, 0, 0⟩) ∧
    decodeRecord { word := 0x000000FF#32, block := .none } = .error .unassignedOpcode := by decide

/-- G4.1 and G4.6, the byte 8 written bit by bit. -/
theorem test_decode_g4Move :
    decodePacket .gen4 [0x01, 0, 0, 0, 0, 0, 0, 0, 0b01000100, 0, 0, 0] = some (.g4Move 0b01 0b000100) ∧
    decodePacket .gen4 [0x01, 0, 0, 0, 0, 0, 0, 0, 0b01100000, 0, 0, 0] = some (.g4Move 0b01 0b100000) := by decide

/-- G4.11. -/
theorem test_decode_g4Orient :
    decodePacket .gen4 [0xEC, 0, 0, 0, 0x7F, 0xFF, 0, 0, 0, 0, 0xA5, 0x30] =
      some (.g4Orient ⟨0, 0x7FFF, 0, 0⟩ #v[10, 5, 3]) := by decide

/-- G4.12 and G4.13. -/
theorem test_decode_g4Unknown : decodePacket .gen4 [0x02] = some (.g4Unknown 0x02) ∧
    decodePacket .gen4 [0x55, 0x01, 0, 0, 0, 0, 0, 0, 0, 0x01] = some (.g4Unknown 0x55) := by decide

/-- G3.4 and G3.5. -/
theorem test_decode_g3Dropped :
    decodePacket .gen3 [0x00, 0x01, 0x07, 0, 0, 0, 0, 0, 0, 0x01] = some (.g3Dropped 0x00 0x01 0x07) ∧
    decodePacket .gen3 [0x54, 0x02, 0xFF] = some (.g3Dropped 0x54 0x02 0xFF) := by decide

/-- G3.3 and G3.11. -/
theorem test_decode_g3MoveA :
    decodePacket .gen3 [0x55, 0x01, 0x07, 0, 0, 0, 0, 0, 0, 0b01100000] = some (.g3MoveA 0b01 0b100000) ∧
    decodePacket .gen3 [0x55, 0x01, 0, 0, 0, 0, 0, 0, 0xFF, 0b00000001] = some (.g3MoveA 0b00 0b000001) := by decide

/-- G3.2. -/
theorem test_decode_g3MoveB :
    decodePacket .gen3 [0x00, 0x01, 0x00, 0, 0, 0, 0, 0, 0, 0b01000001] = some (.g3MoveB 0b01 0b000001) := by decide

/-- G3.9 and G3.10. -/
theorem test_decode_g3Unknown : decodePacket .gen3 [0x55, 0x02, 0x07] = some (.g3Unknown 0x55 0x02 0x07) ∧
    decodePacket .gen3 (List.replicate 20 0) = some (.g3Unknown 0 0 0) := by decide

/-- G2.2. -/
theorem test_decode_g2Snapshot : decodePacket .gen2 [0x4F, 0xA0] = some (.g2Snapshot 250) := by decide

/-- G2.4, with its table of slots. -/
theorem test_decode_g2Batch : decodePacket .gen2 [0x20, 0x32, 0x90, 0x62, 0x60, 0x40] =
    some (.g2Batch 3 #v[⟨2, 1⟩, ⟨2, 0⟩, ⟨1, 1⟩, ⟨1, 0⟩, ⟨6, 0⟩, ⟨0, 1⟩, ⟨0, 0⟩]) := by decide

/-- G2.12. -/
theorem test_decode_g2Orient :
    decodePacket .gen2 [0x18, 0x00, 0x07, 0xFF, 0xFF, 0xFF, 0xF0, 0x00, 0x1A, 0x5F] =
      some (.g2Orient ⟨0x8000, 0x7FFF, 0xFFFF, 0x0001⟩ #v[10, 5, 15]) := by decide

/-- G2.13 and G2.14. -/
theorem test_decode_g2Unknown : decodePacket .gen2 [0x30] = some (.g2Unknown 3) ∧
    decodePacket .gen2 [0xF0] = some (.g2Unknown 0xF) := by decide

/-! ### One step (95_test_vectors.md 2.2 to 2.9) -/

/-- C.1, for the registers a NOP must keep. -/
theorem test_nop_after_batch :
    let s := shown (seeded 255) 0x00001410 (bytes [0x20, 0x03])
    (shown s 0x00000000 .none).result = Result.empty ∧ (shown s 0x00000000 .none).trkLast = 0 := by decide

/-- C.2. -/
theorem test_reset_any : shown (seeded 250) 0x00000001 .none = State.reset := by decide

/-- C.3, C.5. -/
theorem test_setgen : (shown State.reset 0x00000202 .none).gen = .gen2 ∧
    (shown gen2 0x00000202 .none).result.status = 0x24 ∧ (shown gen2 0x00000702 .none).result.status = 0x23 ∧
    (shown State.reset 0x00000102 .none).result.status = 0x23 := by decide

/-- 2.2, G4.14, G4.15: the checks of DECODE in order. -/
theorem test_decode_checks : (shown State.reset 0x00001410 (bytes [0x01])).result.status = 0x25 ∧
    (shown State.reset 0x00001110 (.payload (List.replicate 17 1))).result.status = 0x25 ∧
    (shown gen4 0x00001110 (.payload (List.replicate 17 1))).result.status = 0x10 ∧
    (shown gen4 0x00001210 (.payload (2 :: List.replicate 17 0))).result.tag = 0x02 := by decide

/-- 2.2: the checks of APPLY in order. -/
theorem test_apply_checks : (shown State.reset 0x00000620 .none).result.status = 0x21 ∧
    (shown State.reset 0x00001820 .none).result.status = 0x22 ∧
    (shown State.reset 0x00001F20 .none).result.status = 0x21 ∧
    (shown State.reset 0x00002020 .none).result.status = 0x20 := by decide

/-- RC.1, RC.3 to RC.7. -/
theorem test_recon_checks :
    let zero : Vector (BitVec 2) 8 := #v[0, 0, 0, 0, 0, 0, 0, 0]
    let id8 : Vector (BitVec 3) 8 := #v[0, 1, 2, 3, 4, 5, 6, 7]
    (shown State.reset 0x30 (.state CubeState.solved)).result = Result.empty ∧
    (shown State.reset 0x30 (.state (corners id8 #v[1, 1, 0, 0, 0, 0, 0, 0]))).result.status = 0x30 ∧
    (shown State.reset 0x30 (.state (corners #v[0, 1, 2, 3, 4, 5, 6, 6] zero))).result.status = 0x30 ∧
    (shown State.reset 0x30 (.state (corners id8 #v[3, 0, 0, 0, 0, 0, 0, 0]))).result.status = 0x30 ∧
    (shown State.reset 0x30 (.state { CubeState.solved with ep := #v[0, 1, 2, 3, 4, 5, 6, 7, 8, 9, 10, 12] })).result.status = 0x30 ∧
    (shown State.reset 0x30 (.state { CubeState.solved with eo := #v[1, 0, 0, 0, 0, 0, 0, 0, 0, 0, 0, 0] })).result.status = 0x30 := by
  decide

/-- RC.8. -/
theorem test_recon_warns :
    let c := corners #v[1, 0, 2, 3, 4, 5, 6, 7] #v[0, 0, 0, 0, 0, 0, 0, 0]
    let t := shown State.reset 0x30 (.state c)
    t.cube = c ∧ t.result.kind = .reconWarn ∧ t.result.expState = CubeState.solved ∧ t.result.actState = c := by decide

/-- Q9. -/
theorem test_orient_q9 :
    let s := { State.reset with qcur := ⟨0x7FFF, 0x7FFF, 0x7FFF, 0x7FFF⟩ }
    let t := shown s 0x40 (.quaternion ⟨0x8000, 0x8001, 0x0001, 0xFFFF⟩)
    numerators t.qcur = ⟨0, -1, 1, -32767⟩ ∧
    t.result.qrel.map BitVec.toInt = ⟨-1073676289, -1073741823, 1073676289, -1073610755⟩ ∧ t.qprev = s.qcur := by decide

/-- Q10. -/
theorem test_orient_q10 :
    let s := { State.reset with qcur := (⟨0x8000, 0x8001, 0x0001, 0xFFFF⟩ : Quat16).map fun r => BitVec.ofInt 16 (sm16 r) }
    (shown s 0x40 (.quaternion ⟨0x5A82, 0x5A82, 0, 0⟩)).result.qrel.map BitVec.toInt =
      ⟨-23170, 23170, -759234560, 759188220⟩ := by decide

/-- 2.8, the table of SM16. -/
theorem test_sm16 : [0x0000#16, 0x7FFF, 0x0001, 0x8000, 0x8001, 0xFFFF, 0x4000, 0xC000].map sm16 =
    [0, 32767, 1, 0, -1, -32767, 16384, -16384] := by decide

/-- G4.7, G4.8, and the kind of G4.1. -/
theorem test_g4Move : (shown gen4 0x1410 (bytes [1, 0, 0, 0, 0, 0, 0, 0, 0x40])).result.status = 0x11 ∧
    (shown gen4 0x1410 (bytes [1, 0, 0, 0, 0, 0, 0, 0, 0x43])).result.status = 0x11 ∧
    (shown gen4 0x1410 (bytes [1, 0, 0, 0, 0, 0, 0, 0, 0x44])).result.kind = .move ∧
    (shown gen4 0x1410 (bytes [1, 0, 0, 0, 0, 0, 0, 0, 0x44])).result.n = 1 := by decide

/-- G4.1 to G4.4 for any FACE_REMAP: the modifier, and that DIR 3 is CW. -/
theorem test_dirToMod : [1#2, 0, 2, 3].map (dirToMod Config.dir3IsCcw) = [.ccw, .cw, .cw, .cw] := by decide

/-- Candidate I2: `FACE_REMAP = [2, 4, 0, 3, 5, 1]` gives D, U, B, F, L, R (95_test_vectors.md 0). -/
theorem test_remap_i2 : (List.finRange 6).map (remappedFace fun k => #v[2, 4, 0, 3, 5, 1][k]) = [.d, .u, .b, .f, .l, .r] := by
  decide

/-- G4.10. -/
theorem test_g4Orient :
    let t := shown gen4 0x1410 (bytes [0xEC, 0x00, 0x7F, 0xFF])
    t.result.qraw = ⟨0x7FFF, 0, 0, 0⟩ ∧ t.result.qrel.map BitVec.toInt = ⟨1073676289, 0, 0, 0⟩ ∧ t.qcur = identityQuat := by
  decide

theorem test_g4Unknown : (shown gen4 0x1410 (bytes [0x02])).result.tag = 0x02 := by decide

/-- G3.4, G3.6. -/
theorem test_g3Dropped : (shown gen3 0x1410 (bytes [0x00, 0x01, 0x07])) = { gen3 with result := { Result.empty with status := 0x12 } } := by
  decide

/-- G3.7, G3.8. -/
theorem test_g3MoveA : (shown gen3 0x1410 (bytes [0x55, 0x01])).result.status = 0x11 ∧
    (shown gen3 0x1410 (bytes [0x55, 0x01, 0, 0, 0, 0, 0, 0, 0, 0xC3])).result.status = 0x11 := by decide

/-- G3.2. -/
theorem test_g3MoveB : (shown gen3 0x1410 (bytes [0x00, 0x01, 0, 0, 0, 0, 0, 0, 0, 0x41])).result.kind = .move := by decide

theorem test_g3Unknown : (shown gen3 0x1410 (bytes [0x55, 0x02, 0x07])).result.tag = 0x02 := by decide

/-- G2.2, G2.3. -/
theorem test_g2Snapshot : (shown gen2 0x1410 (bytes [0x4F, 0xA0])).trkLast = 250 ∧
    (shown gen2 0x1410 (bytes [0x4F, 0xA0])).trkSeeded = true ∧
    (shown (seeded 250) 0x1410 (bytes [0x40, 0x00])).trkLast = 250 ∧
    (shown (seeded 250) 0x1410 (bytes [0x40, 0x00])).result.kind = .facelets := by decide

/-- G2.4. -/
theorem test_g2Batch_wrap :
    let t := shown (seeded 250) 0x1410 (bytes [0x20, 0x32, 0x90, 0x62, 0x60, 0x40])
    t.result.status = 0x00090100 ∧ t.result.n = 6 ∧ t.result.mv = #v[0, 8, 1, 9, 2, 10, 0] ∧ t.trkLast = 3 := by decide

/-- G2.1, G2.5, G2.10. -/
theorem test_g2Batch_corners : (shown gen2 0x1410 (bytes [0x21])).result.status = 0x02 ∧
    (shown (seeded 3) 0x1410 (bytes [0x20, 0x32, 0x90, 0x62, 0x60, 0x40])).result.status = 0x01 ∧
    (shown (seeded 0) 0x1410 (bytes [0x2F, 0xFF, 0xFF, 0xFF, 0xFF, 0xFE])).result.status = 0x00FF0700 ∧
    (shown (seeded 10) 0x1410 (bytes [0x20, 0xD5, 0xA0, 0xFE])).result.mv = #v[11, 4, 13, 0, 0, 0, 0] := by decide

/-- G2.12. -/
theorem test_g2Orient :
    let t := shown gen2 0x1410 (bytes [0x18, 0x00, 0x07, 0xFF, 0xFF, 0xFF, 0xF0, 0x00, 0x1A, 0x5F])
    numerators t.result.qabs = ⟨0, 32767, -32767, 1⟩ ∧
    t.result.qrel.map BitVec.toInt = ⟨0, 1073676289, -1073676289, 32767⟩ ∧ t.result.vel = #v[10, 5, 15] := by decide

theorem test_g2Unknown : (shown gen2 0x1410 (bytes [0xF0])).result.tag = 0x0F := by decide

/-- 30_encoding.md R79. -/
theorem test_refused : step (gen2.present { word := 0x1310, block := bytes [0x4F] }) = .refused .recordLengthMismatch := rfl

/-! ### Turns, with the candidate tables I3 (93_implementation_defined.md) and the states of 95_test_vectors.md 2.4 -/

def tableR : FaceTable where
  cp := fun i => #v[4, 1, 2, 0, 7, 5, 6, 3][i]
  co := fun i => #v[2, 0, 0, 1, 1, 0, 0, 2][i]
  ep := fun j => #v[8, 1, 2, 3, 11, 5, 6, 7, 4, 9, 10, 0][j]
  eo := fun _ => 0

def tableF : FaceTable where
  cp := fun i => #v[1, 5, 2, 3, 0, 4, 6, 7][i]
  co := fun i => #v[1, 2, 0, 0, 2, 1, 0, 0][i]
  ep := fun j => #v[0, 9, 2, 3, 4, 8, 6, 7, 1, 5, 10, 11][j]
  eo := fun j => #v[0, 1, 0, 0, 0, 1, 0, 0, 1, 1, 0, 0][j]

/-- `APPLY R'` from solved. -/
theorem test_turn_r_ccw : turnTimes tableR (quarterTurns .ccw) CubeState.solved = {
    cp := #v[3, 1, 2, 7, 0, 5, 6, 4]
    co := #v[2, 0, 0, 1, 1, 0, 0, 2]
    ep := #v[11, 1, 2, 3, 8, 5, 6, 7, 0, 9, 10, 4]
    eo := #v[0, 0, 0, 0, 0, 0, 0, 0, 0, 0, 0, 0] } := by decide

/-- `FORMULA "F R"` from solved: the order of composition. -/
theorem test_turn_f_then_r : quarterTurn tableR (quarterTurn tableF CubeState.solved) = {
    cp := #v[0, 5, 2, 1, 7, 4, 6, 3]
    co := #v[1, 2, 0, 2, 1, 1, 0, 2]
    ep := #v[1, 9, 2, 3, 11, 8, 6, 7, 4, 5, 10, 0]
    eo := #v[1, 1, 0, 0, 0, 1, 0, 0, 0, 1, 0, 0] } := by decide

/-! ### The assembler (95_test_vectors.md 2.2; 30_encoding.md R85 to R87) -/

theorem test_asm_apply : (assemble "APPLY R'".toList).map (List.map CommandRecord.word) = some [0x920] ∧
    (assemble "  APPLY B2 ; half".toList).map (List.map CommandRecord.word) = some [0x1520] ∧
    assemble "APPLY r".toList = none ∧ assemble "APPLY R2'".toList = none := by decide

theorem test_asm_formula :
    (assemble "FORMULA \"R U R' U'\"".toList).map (List.map CommandRecord.word) = some [0x120, 0x020, 0x920, 0x820] ∧
    assemble "FORMULA \"\"".toList = some [] ∧ assemble "FORMULA \"R X\"".toList = none := by decide

theorem test_asm_decode :
    assemble "DECODE 4F A0 0 0 0 0 0 0 0 0 0 0 0 0 0 0 0 0 0 0".toList = some [{ word := 0x1410, block := bytes [0x4F, 0xA0] }] ∧
    assemble "DECODE 4F A0".toList = none ∧ assemble "SETGEN 4".toList = some [{ word := 0x402, block := .none }] ∧
    assemble "SETGEN 5".toList = none ∧ assemble "".toList = some [] := by decide

theorem test_asm_recon : assemble "RECON cp=01234567 co=12000000 ep=0,1,2,3,4,5,6,7,8,9,10,11 eo=000000000011".toList =
    some [{ word := 0x30, block := .state { CubeState.solved with
      co := #v[1, 2, 0, 0, 0, 0, 0, 0], eo := #v[0, 0, 0, 0, 0, 0, 0, 0, 0, 0, 1, 1] } }] := by decide

theorem test_asm_orient : assemble "ORIENT 7FFF 0000 ffff 8001".toList =
    some [{ word := 0x40, block := .quaternion ⟨0x7FFF, 0, 0xFFFF, 0x8001⟩ }] ∧
    (assemble "NOP".toList).map (List.map CommandRecord.word) = some [0] ∧
    (assemble "RESET".toList).map (List.map CommandRecord.word) = some [1] := by decide

/-! ### Table words -/

theorem test_tableWord : decodeTableWord 32 0x00000120 = some (.apply 1 0) ∧ decodeTableWord 32 0x00000100 = none ∧
    decodeTableWord 8 0x01 = some (.g4Move 0 0) ∧ decodeTableWord 8 0x40 = some (.g2Snapshot 0) ∧
    decodeTableWord 24 0x540207 = some (.g3Dropped 0x54 0x02 0x07) ∧ decodeTableWord 16 0x5501 = some (.g3MoveA 0 0) := by
  decide

theorem test_withFetchWord : (after (step (State.reset.withFetchWord 8 0x4F))).trkLast = 0xF0 ∧
    (after (step (State.reset.withFetchWord 32 0x402))).gen = .gen4 := by decide

/-! ### Witnesses: concrete states and operands that meet the hypotheses of the obligations -/

/-- The hypotheses of `reservedBitsIllegal`, at the lowest reserved bit of each row and at bit 31. -/
theorem witness_reservedBits :
    ∀ r ∈ [(0x00, 8), (0x01, 8), (0x02, 11), (0x10, 16), (0x20, 13), (0x30, 8), (0x40, 8)], ∀ top ∈ [r.2, 31],
      let w : CmdWord := BitVec.ofNat 32 (r.1 + 2 ^ top)
      w.extractLsb' 0 8 = BitVec.ofNat 8 r.1 ∧ w >>> r.2 ≠ 0#32 := by decide

/-- A selected generation that RESET changes. -/
theorem witness_ResetCommandReturnsEveryRegister :
    ∃ t, exec .reset gen2 = .next t ∧ gen2.gen ≠ .none ∧ t.gen ≠ gen2.gen := ⟨_, rfl, by decide, by decide⟩

theorem witness_SetgenSelectsOnceThenLocks :
    (∀ n ∈ [0x00000002, 0x00000702], BitVec.ofNat 32 n &&& 0xFFFFF8FF#32 = 0x00000002#32) ∧
    (∀ g ∈ [0#3, 1#3, 5#3, 7#3], g ≠ 2#3 ∧ g ≠ 3#3 ∧ g ≠ 4#3) ∧ gen2.gen ≠ .none ∧ State.reset.gen = .none ∧
    Generation.gen2 ≠ .none ∧ Generation.gen2.code = 2#3 ∧ Generation.gen4.code = 4#3 := by decide

/-- GEN changes by SETGEN and RESET; the tracker by RESET, a snapshot, a batch, and a DECODE of either. -/
theorem witness_OnlyNamedCommandsWriteGenAndTracker :
    (∃ t, exec (.setgen 3) State.reset = .next t ∧ t.gen ≠ State.reset.gen) ∧
    (∃ t, exec .reset (seeded 7) = .next t ∧ t.gen ≠ (seeded 7).gen ∧ t.trkLast ≠ (seeded 7).trkLast) ∧
    (∃ t, exec (.g2Snapshot 250) gen2 = .next t ∧ t.trkSeeded ≠ gen2.trkSeeded) ∧
    (∃ t, exec (.g2Batch 8 (Vector.replicate 7 ⟨15, 1⟩)) (seeded 7) = .next t ∧ t.trkLast ≠ (seeded 7).trkLast) ∧
    (∃ t, exec (.decode (0x4F :: 0xA0 :: List.replicate 18 0)) gen2 = .next t ∧ t.trkLast ≠ gen2.trkLast) :=
  ⟨⟨_, rfl, by decide⟩, ⟨_, rfl, by decide, by decide⟩, ⟨_, rfl, by decide⟩, ⟨_, rfl, by decide⟩, ⟨_, rfl, by decide⟩⟩

theorem witness_StepRunsTheDecodedInstruction :
    decodeRecord { word := 0x00000920#32, block := .none } = .ok (.apply 1 1) ∧ State.reset.pending = [] := by decide

theorem witness_WordsOfNoRowRaiseIllegalCmd :
    ∀ n ∈ [0x00000003, 0x000000FF, 0x00000100, 0x80000001, 0x00000802, 0x00010010, 0x00002020, 0x00000130, 0x00000140],
      let w : CmdWord := BitVec.ofNat 32 n
      w ≠ 0x00000000#32 ∧ w ≠ 0x00000001#32 ∧ w &&& 0xFFFFF8FF#32 ≠ 0x00000002#32 ∧
      w &&& 0xFFFF00FF#32 ≠ 0x00000010#32 ∧ w &&& 0xFFFFE0FF#32 ≠ 0x00000020#32 ∧
      w ≠ 0x00000030#32 ∧ w ≠ 0x00000040#32 := by decide

/-- `LEN` 0 with no byte and with one; `LEN` 255 with 255 bytes and with 254. -/
theorem witness_RecordLengthIsCheckedByTheEncoding (P Q : List Byte) (hP : P.length = 255) (hQ : Q.length = 254) :
    (0x00000010#32 &&& 0xFFFF00FF#32 = 0x00000010#32 ∧ 0x0000FF10#32 &&& 0xFFFF00FF#32 = 0x00000010#32) ∧
    ([] : List Byte).length = ((0x00000010#32).extractLsb' 8 8).toNat ∧
    [(0 : Byte)].length ≠ ((0x00000010#32).extractLsb' 8 8).toNat ∧
    P.length = ((0x0000FF10#32).extractLsb' 8 8).toNat ∧ Q.length ≠ ((0x0000FF10#32).extractLsb' 8 8).toNat := by
  rw [hP, hQ]
  decide

theorem presentable_of (r : CommandRecord) (h : (∃ i, decodeRecord r = .ok i) ∨ decodeRecord r = .error .reservedBits) :
    presentable r := by
  constructor <;> intro he <;> rw [he] at h <;> simp at h

/-- An illegal word and a legal record may be presented. -/
theorem witness_EveryPresentedCommandEndsWithAStatus :
    presentable { word := 0x00000100#32, block := .none } ∧ presentable { word := 0x00001410#32, block := bytes [0x4F] } :=
  ⟨presentable_of _ (.inr (by decide)), presentable_of _ (.inl ⟨_, rfl⟩)⟩

/-- No record, and three of which the second is illegal. -/
theorem witness_RunPerformsEveryRecordOnce :
    (∀ r ∈ ([] : List CommandRecord), presentable r) ∧
    ∀ r ∈ [({ word := 0x00000202#32, block := .none } : CommandRecord), { word := 0x00000100#32, block := .none },
        { word := 0x00001410#32, block := bytes [0x4F] }], presentable r := by
  refine ⟨by simp, fun r hr => ?_⟩
  simp only [List.mem_cons, List.not_mem_nil, or_false] at hr
  obtain rfl | rfl | rfl := hr
  · exact presentable_of _ (.inl ⟨_, rfl⟩)
  · exact presentable_of _ (.inr (by decide))
  · exact presentable_of _ (.inl ⟨_, rfl⟩)

/-- A raised code from an instruction and from an illegal word. -/
theorem witness_RaisedStatusLeavesAllOtherRegisters :
    (∃ t, exec (.setgen 7) gen2 = .next t ∧ t.result.code ≠ 0x00#8 ∧ t.result.code ≠ 0x01#8) ∧
    (∃ t, step (gen2.present { word := 0x00000100#32, block := .none }) = .next t ∧ t.result.code ≠ 0x00#8 ∧
      t.result.code ≠ 0x01#8) := ⟨⟨_, rfl, by decide, by decide⟩, ⟨_, rfl, by decide, by decide⟩⟩

/-- Results that are no batch's (of NOP, and of RESET with the tracker seeded), and a batch's with DELTA 255; also for the statements over every completed instruction. -/
theorem witness_StatusWordLayout :
    (∃ t, exec .nop gen2 = .next t ∧ t.result.kind ≠ .moveBatch) ∧
    (∃ t, exec .reset (seeded 7) = .next t ∧ t.result.kind ≠ .moveBatch) ∧
    (∃ t, exec (.g2Batch 255 (Vector.replicate 7 ⟨15, 1⟩)) (seeded 0) = .next t ∧ t.result.delta ≠ 0) :=
  ⟨⟨_, rfl, by decide⟩, ⟨_, rfl, by decide⟩, ⟨_, rfl, by decide⟩⟩

theorem witness_OtherCommandsDoNotReadGen :
    (∀ P, Instr.g4Unknown 2 ≠ .decode P) ∧ (∀ x, Instr.g4Unknown 2 ≠ .setgen x) ∧ Instr.g4Unknown 2 ≠ .reset ∧
    ∃ t, exec (.g4Unknown 2) gen2 = .next t := ⟨by simp, by simp, by simp, ⟨_, rfl⟩⟩

/-- The last bit of a 20-byte payload, and an empty field after it. -/
theorem witness_FieldIsTheNumberItsBitsSpell :
    159 + 1 ≤ 8 * (List.replicate 20 (0 : Byte)).length ∧ 160 + 0 ≤ 8 * (List.replicate 20 (0 : Byte)).length := by decide

/-- Payloads of 18 and 20 bytes that differ from offset 92 on. -/
theorem witness_OffsetsFrom92AreNeverRead :
    let P : List Byte := List.replicate 18 0
    let Q : List Byte := List.replicate 11 0 ++ 0x0F :: List.replicate 8 0xFF
    acceptedLength P.length ∧ acceptedLength Q.length ∧ (∀ off < 92, bitAt P off = bitAt Q off) ∧
    bitAt P 92 ≠ bitAt Q 92 := by
  refine ⟨.inl (by decide), .inr (.inr (by decide)), ?_, by decide⟩
  intro off h
  interval_cases off <;> rfl

theorem witness_CommandsDecodeFromTheirEncoding :
    (Instr.decode []).wellFormed = true ∧ (∀ p : Packet, Instr.decode [] ≠ p.toInstr) ∧
    decodeRecord { word := 0x00000010#32, block := .payload [] } = .ok (.decode []) :=
  ⟨by decide, fun p => by cases p <;> simp [Packet.toInstr], by decide⟩

/-- One well-formed packet of every kind. -/
theorem witness_PacketsDecodeFromTheirPayload :
    ∀ p ∈ [Packet.g4Move 3 63, .g4Orient ⟨1, 2, 3, 4⟩ #v[15, 0, 1], .g4Unknown 0xFF, .g3Dropped 0x54 1 0xFF,
        .g3MoveA 1 32, .g3MoveB 2 1, .g3Unknown 0xFF 0 0, .g2Snapshot 255, .g2Batch 255 (Vector.replicate 7 ⟨15, 1⟩),
        .g2Orient ⟨1, 2, 3, 4⟩ #v[15, 0, 1], .g2Unknown 15],
      p.toInstr.wellFormed = true := by decide

theorem witness_DecodeChecksThenRunsTheSelectedDecoder :
    0x00001410#32 &&& 0xFFFF00FF#32 = 0x00000010#32 ∧ State.reset.gen = .none ∧
    (∀ s ∈ [gen2, gen3, gen4], s.gen ≠ .none) ∧ (∀ n ∈ [18, 19, 20], acceptedLength n) ∧
    ∀ n ∈ [0, 17, 21, 255], ¬ acceptedLength n := by
  refine ⟨by decide, rfl, by decide, ?_, ?_⟩ <;> simp [acceptedLength]

/-- A state of each generation; an accepted length stands in the witness before. -/
theorem witness_payloadsAreReadByTheirTag : gen4.gen = .gen4 ∧ gen3.gen = .gen3 ∧ gen2.gen = .gen2 := ⟨rfl, rfl, rfl⟩

/-- No bit, two bits and all bits; the lowest and the highest bit alone. -/
theorem witness_OneHotMovePacketsEmitAndApplyOneMove :
    (∀ o ∈ [0#6, 3#6, 63#6], ∀ k < 6, o.toNat ≠ 2 ^ k) ∧ (1#6).toNat = 2 ^ (0 : Fin 6).val ∧
    (32#6).toNat = 2 ^ (5 : Fin 6).val := by decide

/-- Moves emitted by a batch: entry 0 of one and entry 6 of seven. -/
theorem witness_NoDecoderEmitsAHalfTurn :
    (∃ t, exec (.g2Batch 1 (Vector.replicate 7 ⟨0, 1⟩)) (seeded 0) = .next t ∧ 0 < t.result.n.toNat) ∧
    (∃ t, exec (.g2Batch 9 (Vector.replicate 7 ⟨5, 1⟩)) (seeded 0) = .next t ∧ 6 < t.result.n.toNat) :=
  ⟨⟨_, rfl, by decide⟩, ⟨_, rfl, by decide⟩⟩

theorem witness_EmittedMovesAreAppliedOldestFirst :
    (∃ P, Instr.decode [] = .decode P) ∧ (∃ t, exec (.decode []) gen2 = .next t) ∧
    (∃ p : Packet, Instr.g2Snapshot 1 = p.toInstr) ∧ ∃ t, exec (.g2Snapshot 1) gen2 = .next t :=
  ⟨⟨[], rfl⟩, ⟨_, rfl⟩, ⟨.g2Snapshot 1, rfl⟩, ⟨_, rfl⟩⟩

/-- A batch and a RESET; DECODE of a wrong length, without a generation, and of a snapshot. -/
theorem witness_TrackerFollowsItsTransitionTable :
    (∃ t, exec (.g2Batch 8 (Vector.replicate 7 ⟨15, 1⟩)) (seeded 7) = .next t ∧ tracker t = some 8) ∧
    (∃ t, exec .reset (seeded 7) = .next t ∧ tracker t = none) ∧
    (∃ t, exec (.decode []) gen2 = .next t) ∧ (∃ t, exec (.decode []) State.reset = .next t) ∧
    decodePacket gen2.gen [0x4F, 0xA0] = some (.g2Snapshot 250) ∧ tracker gen2 = none :=
  ⟨⟨_, rfl, by decide⟩, ⟨_, rfl, by decide⟩, ⟨_, rfl⟩, ⟨_, rfl⟩, by decide, by decide⟩

/-- Unseeded; seeded with difference 0, 1, 7, 8 and 255. -/
theorem witness_gen2Tracker : gen2.trkSeeded = false ∧ (seeded 250).trkSeeded = true ∧
    (250 + 256 - (seeded 250).trkLast.toNat) % 256 = 0 ∧
    [251, 1, 2, 249].map (fun c => (c + 256 - (seeded 250).trkLast.toNat) % 256) = [1, 7, 8, 255] := by decide

/-- The operands of APPLY at the edges of its checks. -/
theorem witness_ApplyChecksThenTurns :
    (∀ n ∈ [0x00000020, 0x00001F20], BitVec.ofNat 32 n &&& 0xFFFFE0FF#32 = 0x00000020#32) ∧
    5 < (6#3).toNat ∧ 5 < (7#3).toNat ∧ (0#3).toNat ≤ 5 ∧ (5#3).toNat ≤ 5 := by decide

/-- Corner orientations in range: solved, and a state of no cube with every corner at 2. -/
theorem witness_MovesOfOneFaceCancel :
    (∀ i : Fin 8, State.reset.cube.co[i].toNat ≤ 2) ∧
    (∀ i : Fin 8, (corners (Vector.replicate 8 7) (Vector.replicate 8 2)).co[i].toNat ≤ 2) ∧ (5#3).toNat ≤ 5 ∧
    execAll [] State.reset = .next State.reset := ⟨by decide, by decide, by decide, rfl⟩

theorem witness_MovesKeepTheInvariantAndTheSums :
    validState State.reset.cube = true ∧ (∃ t, exec (.apply 5 2) State.reset = .next t) ∧
    ∃ t, exec (.apply 6 0) State.reset = .next t := ⟨by decide, ⟨_, rfl⟩, ⟨_, rfl⟩⟩

/-- The cube changed by RESET and by RECON. -/
theorem witness_OnlyMovesReconAndResetWriteTheCube :
    let c := corners #v[1, 0, 2, 3, 4, 5, 6, 7] #v[0, 0, 0, 0, 0, 0, 0, 0]
    (∃ t, exec .reset { State.reset with cube := c } = .next t ∧ t.cube ≠ c) ∧
    (∃ t, exec (.recon c) State.reset = .next t ∧ t.cube ≠ State.reset.cube) :=
  ⟨⟨_, rfl, by decide⟩, ⟨_, rfl, by decide⟩⟩

/-- Rejected, matching and differing reported states. -/
theorem witness_ReconWarnsOnMismatchAndAdopts :
    let c := corners #v[1, 0, 2, 3, 4, 5, 6, 7] #v[0, 0, 0, 0, 0, 0, 0, 0]
    validState CubeState.zero = false ∧ validState CubeState.solved = true ∧ State.reset.cube = CubeState.solved ∧
    validState c = true ∧ State.reset.cube ≠ c := by decide

theorem witness_RelativeNumeratorsAreBounded :
    quatInRange State.reset.qcur ∧ (∃ t, exec (.orient ⟨0xFFFF, 0, 0, 0⟩) State.reset = .next t) ∧
    (∃ t, exec (.g4Orient ⟨0xFFFF, 0, 0, 0⟩ #v[0, 0, 0]) State.reset = .next t) ∧
    (∃ t, exec (.g2Orient ⟨0xFFFF, 0, 0, 0⟩ #v[0, 0, 0]) State.reset = .next t) ∧ (∃ t, exec .nop State.reset = .next t) ∧
    ({ State.reset with qcur := ⟨32767, 32767, 32767, 32767⟩ } : State).qcur = ⟨32767, 32767, 32767, 32767⟩ :=
  ⟨quatInRange_identity, ⟨_, rfl⟩, ⟨_, rfl⟩, ⟨_, rfl⟩, ⟨_, rfl⟩, rfl⟩

theorem witness_OnlyOrientationAndResetWriteTheQuaternions :
    (∃ t, exec (.orient ⟨0, 0x7FFF, 0, 0⟩) State.reset = .next t ∧ t.qcur ≠ State.reset.qcur) ∧
    (∃ t, exec .reset { State.reset with qprev := ⟨0, 0, 0, 1⟩ } = .next t ∧ t.qprev ≠ ⟨0, 0, 0, 1⟩) :=
  ⟨⟨_, rfl, by decide⟩, ⟨_, rfl, by decide⟩⟩

theorem inv_seeded (c : Byte) : Inv (seeded c) where
  cube := solved_valid
  tracker := fun h => by simp [seeded] at h
  qprev := quatInRange_identity
  qcur := quatInRange_identity
  result := resultInv_status .ok 0 0

/-- A state with the invariants from which a step reaches a next state. -/
theorem witness_StepKeepsTheInvariant :
    let s := (seeded 250).present { word := 0x00001410#32, block := bytes [0x20, 0x32, 0x90, 0x62, 0x60, 0x40] }
    Inv s ∧ validState s.cube = true ∧ ∃ t, step s = .next t :=
  ⟨{ inv_seeded 250 with }, solved_valid, ⟨_, rfl⟩⟩

/-- A formula with one bad word. -/
theorem witness_FormulaIsItsTokensInOrder :
    let words : List (List Char × Nat) := [(['R'], 0), (['X'], 2), (['U', '2'], 0)]
    (∀ w ∈ words, w.1 ≠ [] ∧ ' ' ∉ w.1) ∧ ∃ w ∈ words, moveOfToken w.1 = none := by decide

end Sys2Proof.Tests
end

