-- ==== Sys2Proof/Proofs/Scope.lean ====
section
/-! The step on a presented record (spec/00_scope.md R6). -/

namespace Sys2Proof.Machine

/-- Settles O6: presenting a record and taking it leave the state as it was, so the step is the decoder's branch alone
(`step_present`), and a record that decodes selects `exec`. -/
theorem stepRunsTheDecodedInstruction : Obligations.StepRunsTheDecodedInstruction := by
  intro s r i hdecode
  rw [step_present, hdecode]

end Sys2Proof.Machine
end

section
/-! The state of the block (spec/10_state.md): the registers' values after reset, the invariants every step keeps, the
layout of RES_STATUS, and who reads RESULT and writes the quaternions. -/

namespace Sys2Proof.Machine

/-! ### What a step can do -/

/-- A step keeps the state, or has an effect on the state its record was taken from: the record of an illegal word has
the effect of a raise (30_encoding.md R74, R75). -/
theorem effect_of_step {s t : State} (h : step s = .next t) :
    t = s ∨ ∃ rest, Effect { s with pending := rest } t := by
  obtain ⟨-, hkeep⟩ | ⟨-, rest, -, ⟨i, -, hexec⟩ | hillegal⟩ := step_cases h
  · exact .inl hkeep
  · exact .inr ⟨rest, effect_of_exec hexec⟩
  · exact .inr ⟨rest, hillegal ▸ .raised .illegalCmd (by decide) (by decide)⟩

/-- A predicate on the registers that every effect keeps is kept by every step. -/
theorem step_keeps {p : State → Prop} (hpending : ∀ s rest, p s → p { s with pending := rest })
    (heffect : ∀ s t, Effect s t → p s → p t) {s t : State} (hstep : step s = .next t) (hs : p s) : p t := by
  obtain rfl | ⟨rest, he⟩ := effect_of_step hstep
  · exact hs
  · exact heffect _ _ he (hpending s rest hs)

/-! ### Each effect keeps the parts of the invariant -/

/-- After a snapshot the tracker is seeded (44_decode_gen2.md R142). -/
@[simp] theorem snapshot_trkSeeded (reseed : Bool) (c : Byte) (s : State) : (snapshot reseed c s).trkSeeded = true := by
  unfold snapshot
  split
  · rfl
  · next h => exact eq_true_of_ne_false fun hs => h (.inl hs)

/-- Every effect keeps an Unseeded tracker's `TRK_LAST` at 0 (10_state.md R22). -/
theorem Effect.tracker_inv {s t : State} (h : Effect s t) (hs : s.trkSeeded = false → s.trkLast = 0) :
    t.trkSeeded = false → t.trkLast = 0 := by
  cases h with
  | raised => exact hs
  | done => exact hs
  | reset => exact fun _ => rfl
  | select => exact hs
  | turned => exact hs
  | matched => exact hs
  | adopted => exact hs
  | sampled => exact hs
  | unknown => exact hs
  | moved => simpa using hs
  | facelets => simp
  | batch c slots hseeded => simp [hseeded]

/-- Every effect keeps the quaternion registers in range (10_state.md R25). -/
theorem Effect.quaternions_inv {s t : State} (h : Effect s t) (hprev : quatInRange s.qprev) (hcur : quatInRange s.qcur) :
    quatInRange t.qprev ∧ quatInRange t.qcur := by
  have kept : quatInRange s.qprev ∧ quatInRange s.qcur := ⟨hprev, hcur⟩
  cases h with
  | raised => exact kept
  | done => exact kept
  | reset => exact ⟨quatInRange_identity, quatInRange_identity⟩
  | select => exact kept
  | turned => exact kept
  | matched => exact kept
  | adopted => exact kept
  | sampled raw => exact ⟨hcur, quatInRange_sample raw⟩
  | unknown => exact kept
  | moved => simpa using kept
  | facelets => simpa using kept
  | batch => simpa using kept

/-- Every effect keeps the whole invariant. -/
theorem Effect.inv {s t : State} (h : Effect s t) (hs : Inv s) : Inv t :=
  have ⟨hprev, hcur⟩ := h.quaternions_inv hs.qprev hs.qcur
  { cube := h.cube_valid hs.cube
    tracker := h.tracker_inv hs.tracker
    qprev := hprev
    qcur := hcur
    result := h.result_inv hs.cube }

/-! ### The invariants -/

/-- Settles O50: the solved state is valid, and each effect keeps a valid cube (`Effect.cube_valid`). -/
theorem stepKeepsTheCubeInvariant : Obligations.StepKeepsTheCubeInvariant :=
  ⟨solved_valid, fun _ _ hs hstep =>
    step_keeps (p := fun s => validState s.cube = true) (fun _ _ h => h) (fun _ _ he => he.cube_valid) hstep hs⟩

/-- Settles O51: the invariant does not speak of the host's records, and each effect keeps it (`Effect.inv`). -/
theorem stepKeepsTheInvariant : Obligations.StepKeepsTheInvariant := fun _ _ hs hstep =>
  step_keeps (fun _ _ h => { h with }) (fun _ _ he => he.inv) hstep hs

/-- The empty result already has CODE = OK (10_state.md R26, R28). -/
theorem okResult_eq_empty : { Result.empty with status := statusWord .ok 0 0 } = Result.empty := by
  rw [statusWord_ok]
  rfl

/-- The empty result is a well-shaped record (10_state.md R26). -/
theorem resultInv_empty : ResultInv Result.empty := okResult_eq_empty ▸ resultInv_status .ok 0 0

/-- Settles O49, from the values of `State.reset`. -/
theorem resetStateHasTheInvariant : Obligations.ResetStateHasTheInvariant where
  cube := solved_valid
  tracker := fun _ => rfl
  qprev := quatInRange_identity
  qcur := quatInRange_identity
  result := resultInv_empty

/-! ### The status word -/

/-- The difference of two counters as a number (44_decode_gen2.md R144). -/
theorem counterDelta_toNat (counter last : Byte) :
    (counterDelta counter last).toNat = (counter.toNat + 256 - last.toNat) % 256 := by
  have := last.isLt
  rw [counterDelta, BitVec.toNat_sub]
  omega

/-- Settles O14: the status word an effect leaves (`Effect.status`), its fields read back. -/
theorem statusWordLayout : Obligations.StatusWordLayout := by
  intro i s t h
  obtain ⟨c, skip, delta, hstatus, -, hskip, hdelta⟩ := (effect_of_exec h).status
  have hc : t.result.code = c.code := by rw [Result.code, hstatus, statusWord_code]
  have hs : t.result.skip = skip := by rw [Result.skip, hstatus, statusWord_skip]
  have hd : t.result.delta = delta := by rw [Result.delta, hstatus, statusWord_delta]
  rw [hc, hs, hd]
  refine ⟨by rw [hstatus, statusWord_toNat], fun hkind => ⟨?_, ?_⟩, fun hne => ?_⟩
  · exact by_contra fun hne => hkind (hskip hne)
  · exact by_contra fun hne => hkind (hdelta hne).1
  · obtain ⟨-, hseeded, rfl⟩ := hdelta hne
    exact ⟨hseeded, counterDelta_toNat _ _⟩

/-! ### The result record is never read -/

@[simp] theorem raiseStatus_setResult (c : StatusCode) (s : State) (r : Result) :
    raiseStatus c { s with result := r } = raiseStatus c s := rfl
@[simp] theorem completeOk_setResult (s : State) (r : Result) : completeOk { s with result := r } = completeOk s := rfl
@[simp] theorem emitUnknown_setResult (tag : Byte) (s : State) (r : Result) :
    emitUnknown tag { s with result := r } = emitUnknown tag s := rfl
@[simp] theorem orientUpdate_setResult (raw : Quat16) (v : Velocity) (s : State) (r : Result) :
    orientUpdate raw v { s with result := r } = orientUpdate raw v s := rfl
@[simp] theorem decodeOneHotMove_setResult (d : BitVec 2) (o : BitVec 6) (s : State) (r : Result) :
    decodeOneHotMove d o { s with result := r } = decodeOneHotMove d o s := rfl
@[simp] theorem snapshot_setResult (reseed : Bool) (c : Byte) (s : State) (r : Result) :
    snapshot reseed c { s with result := r } = snapshot reseed c s := rfl
@[simp] theorem seededBatch_setResult (c : Byte) (slots : Vector Slot 7) (s : State) (r : Result) :
    seededBatch c slots { s with result := r } = seededBatch c slots s := rfl

/-- No packet's routine reads the result record: each ends in a shared operation that writes it afresh. -/
theorem runPacket_setResult (p : Packet) (s : State) (r : Result) :
    runPacket p { s with result := r } = runPacket p s := by
  cases p with
  | g4Move d o => simp [runPacket, execG4Move]
  | g4Orient raw v => simp [runPacket, execG4Orient]
  | g4Unknown tag => simp [runPacket, execG4Unknown]
  | g3Dropped => simp [runPacket, execG3Dropped]
  | g3MoveA d o => simp [runPacket, execG3MoveA]
  | g3MoveB d o => simp [runPacket, execG3MoveB]
  | g3Unknown _ tag => simp [runPacket, execG3Unknown]
  | g2Snapshot c => simp [runPacket, execG2Snapshot]
  | g2Batch c slots => simp [runPacket, execG2Batch]
  | g2Orient raw v => simp [runPacket, execG2Orient]
  | g2Unknown tag => simp [runPacket, execG2Unknown]

/-- Settles O15: a command, like a packet, ends in an operation that writes the result record afresh. SETGEN, APPLY and
RECON test only operands and other registers before, so their branches are the same by computation. -/
theorem noCommandReadsTheResult : Obligations.NoCommandReadsTheResult := by
  intro i s r
  cases i with
  | nop => simp [exec, execNop]
  | reset => simp [exec, execReset]
  | setgen g => rfl
  | decode P => simp only [exec, execDecode, runPacket_setResult, raiseStatus_setResult]
  | apply f m => rfl
  | recon c => rfl
  | orient raw => simp [exec, execOrient]
  | g4Move d o => exact runPacket_setResult (.g4Move d o) s r
  | g4Orient raw v => exact runPacket_setResult (.g4Orient raw v) s r
  | g4Unknown tag => exact runPacket_setResult (.g4Unknown tag) s r
  | g3Dropped a b c => exact runPacket_setResult (.g3Dropped a b c) s r
  | g3MoveA d o => exact runPacket_setResult (.g3MoveA d o) s r
  | g3MoveB d o => exact runPacket_setResult (.g3MoveB d o) s r
  | g3Unknown a b c => exact runPacket_setResult (.g3Unknown a b c) s r
  | g2Snapshot c => exact runPacket_setResult (.g2Snapshot c) s r
  | g2Batch c slots => exact runPacket_setResult (.g2Batch c slots) s r
  | g2Orient raw v => exact runPacket_setResult (.g2Orient raw v) s r
  | g2Unknown tag => exact runPacket_setResult (.g2Unknown tag) s r

/-! ### Who writes the quaternions -/

/-- The instructions that are an orientation sample, with the sample's raw components and velocities
(45_orientation.md R161, R165). -/
inductive Samples : Instr → Quat16 → Velocity → Prop where
  | orient (raw : Quat16) : Samples (.orient raw) raw #v[0, 0, 0]
  | g4Orient (raw : Quat16) (v : Velocity) : Samples (.g4Orient raw v) raw v
  | g2Orient (raw : Quat16) (v : Velocity) : Samples (.g2Orient raw v) raw v

/-- A sample is the orientation update. -/
theorem Samples.exec_eq {i : Instr} {raw : Quat16} {v : Velocity} (h : Samples i raw v) (s : State) :
    exec i s = .next (orientUpdate raw v s) := by
  cases h <;> rfl

/-- The quaternion registers are those of before. -/
def keepsQuaternions (s t : State) : Prop := t.qprev = s.qprev ∧ t.qcur = s.qcur

/-- An instruction other than RESET and DECODE is a sample or keeps the quaternions. -/
theorem samples_or_keepsQuaternions (i : Instr) (s : State) (hreset : i ≠ .reset) (hdecode : ∀ P, i ≠ .decode P) :
    (∃ raw v, Samples i raw v) ∨ ∃ t, exec i s = .next t ∧ keepsQuaternions s t := by
  cases i with
  | nop => exact .inr ⟨_, rfl, rfl, rfl⟩
  | reset => exact absurd rfl hreset
  | setgen g =>
    right
    show ∃ t, execSetgen g s = .next t ∧ _
    unfold execSetgen
    split
    · exact ⟨_, rfl, rfl, rfl⟩
    · split <;> exact ⟨_, rfl, rfl, rfl⟩
  | decode P => exact absurd rfl (hdecode P)
  | apply f m =>
    right
    show ∃ t, execApply f m s = .next t ∧ _
    unfold execApply
    split
    · exact ⟨_, rfl, rfl, rfl⟩
    · split <;> exact ⟨_, rfl, rfl, rfl⟩
  | recon c =>
    right
    show ∃ t, execRecon c s = .next t ∧ _
    unfold execRecon
    split
    · exact ⟨_, rfl, rfl, rfl⟩
    · split <;> exact ⟨_, rfl, rfl, rfl⟩
  | orient raw => exact .inl ⟨_, _, .orient raw⟩
  | g4Move d o => exact .inr ⟨_, rfl, decodeOneHotMove_qprev d o s, decodeOneHotMove_qcur d o s⟩
  | g4Orient raw v => exact .inl ⟨_, _, .g4Orient raw v⟩
  | g4Unknown => exact .inr ⟨_, rfl, rfl, rfl⟩
  | g3Dropped => exact .inr ⟨_, rfl, rfl, rfl⟩
  | g3MoveA d o => exact .inr ⟨_, rfl, decodeOneHotMove_qprev d o s, decodeOneHotMove_qcur d o s⟩
  | g3MoveB d o => exact .inr ⟨_, rfl, decodeOneHotMove_qprev d o s, decodeOneHotMove_qcur d o s⟩
  | g3Unknown => exact .inr ⟨_, rfl, rfl, rfl⟩
  | g2Snapshot c => exact .inr ⟨_, rfl, snapshot_qprev _ c s, snapshot_qcur _ c s⟩
  | g2Batch c slots =>
    right
    show ∃ t, execG2Batch c slots s = .next t ∧ _
    unfold execG2Batch
    split
    · exact ⟨_, rfl, rfl, rfl⟩
    · exact ⟨_, rfl, seededBatch_qprev c slots s, seededBatch_qcur c slots s⟩
  | g2Orient raw v => exact .inl ⟨_, _, .g2Orient raw v⟩
  | g2Unknown => exact .inr ⟨_, rfl, rfl, rfl⟩

/-- An instruction other than RESET and DECODE that writes the quaternions is a sample, and its state the update's. -/
theorem samples_of_writes {i : Instr} {s t : State} (h : exec i s = .next t) (hw : ¬ keepsQuaternions s t)
    (hreset : i ≠ .reset) (hdecode : ∀ P, i ≠ .decode P) : ∃ raw v, Samples i raw v ∧ t = orientUpdate raw v s := by
  obtain ⟨raw, v, hi⟩ | ⟨u, hu, hk⟩ := samples_or_keepsQuaternions i s hreset hdecode
  · exact ⟨raw, v, hi, Host.Outcome.next.inj (h.symm.trans (hi.exec_eq s))⟩
  · exact absurd (Host.Outcome.next.inj (h.symm.trans hu) ▸ hk) hw

/-- A packet is no RESET. -/
theorem toInstr_ne_reset (p : Packet) : p.toInstr ≠ .reset := by cases p <;> simp [Packet.toInstr]

/-- A packet is no DECODE. -/
theorem toInstr_ne_decode (p : Packet) (P : List Byte) : p.toInstr ≠ .decode P := by cases p <;> simp [Packet.toInstr]

/-- A packet that is a sample is of Gen4 or Gen2. -/
theorem generation_of_samples {p : Packet} {raw : Quat16} {v : Velocity} (h : Samples p.toInstr raw v) :
    p.generation = .gen4 ∨ p.generation = .gen2 := by
  cases p with
  | g4Orient => exact .inl rfl
  | g2Orient => exact .inr rfl
  | _ => cases h

/-- A DECODE that writes the quaternions runs a sample packet of the selected generation. -/
theorem decode_samples_of_writes {P : List Byte} {s t : State} (h : exec (.decode P) s = .next t)
    (hw : ¬ keepsQuaternions s t) : (s.gen = .gen4 ∨ s.gen = .gen2) ∧ ∃ raw v, t = orientUpdate raw v s := by
  obtain ⟨-, he⟩ | ⟨-, -, he⟩ | ⟨-, p, -, hgen, he⟩ := exec_decode_cases P s
  · exact absurd (Host.Outcome.next.inj (h.symm.trans he) ▸ ⟨rfl, rfl⟩) hw
  · exact absurd (Host.Outcome.next.inj (h.symm.trans he) ▸ ⟨rfl, rfl⟩) hw
  · obtain ⟨raw, v, hp, ht⟩ :=
      samples_of_writes (he.symm.trans h) hw (toInstr_ne_reset p) (toInstr_ne_decode p)
    exact ⟨hgen ▸ generation_of_samples hp, raw, v, ht⟩

/-- Settles O48: the instruction is RESET, a DECODE of a sample packet, or itself a sample; and the orientation update
shifts QCUR into QPREV. -/
theorem onlyOrientationAndResetWriteTheQuaternions : Obligations.OnlyOrientationAndResetWriteTheQuaternions := by
  intro i s t h hne
  have hw : ¬ keepsQuaternions s t := fun ⟨hprev, hcur⟩ => hne.elim (absurd hprev) (absurd hcur)
  by_cases hreset : i = .reset
  · exact .inl hreset
  right
  by_cases hdecode : ∃ P, i = .decode P
  · obtain ⟨P, rfl⟩ := hdecode
    obtain ⟨hgen, raw, v, rfl⟩ := decode_samples_of_writes h hw
    exact ⟨rfl, rfl, .inr (.inr (.inr ⟨P, rfl, hgen⟩))⟩
  · obtain ⟨raw, v, hi, rfl⟩ := samples_of_writes h hw hreset (not_exists.mp hdecode)
    refine ⟨rfl, rfl, ?_⟩
    cases hi with
    | orient => exact .inl ⟨_, rfl⟩
    | g4Orient => exact .inr (.inl ⟨_, _, rfl⟩)
    | g2Orient => exact .inr (.inr (.inl ⟨_, _, rfl⟩))

/-! ### The reset values -/

/-- `State.reset` holds the values of 10_state.md R32. -/
theorem atResetValues_reset : Spec.atResetValues State.reset := by
  unfold Spec.atResetValues
  decide

/-- RESET ends in the reset state with the host's records kept (47_control.md R181). -/
theorem exec_reset (s : State) : exec .reset s = .next { State.reset with pending := s.pending } := by
  show Host.Outcome.next (completeOk { State.reset with pending := s.pending }) = _
  rw [completeOk, okResult_eq_empty]
  rfl

/-- Settles O1: RESET ends in the reset state but for the host's records, of which the registers' values do not speak. -/
theorem resetGivesEveryRegisterItsResetValue : Obligations.ResetGivesEveryRegisterItsResetValue :=
  ⟨atResetValues_reset, fun s => ⟨_, exec_reset s, atResetValues_reset, rfl⟩⟩

end Sys2Proof.Machine
end

section
/-! The payload as a bit string (spec/20_memory.md): what number a field is (R51, R52), and that the decoders read no offset
from 92 on (R54). -/

namespace Sys2Proof.Machine

open Sys2Proof.Spec

/-! ### The number a field is -/

/-- The model's payload bit is the bit of 20_memory.md R51. -/
theorem payloadBit_toNat (P : List Byte) (off : Nat) : (payloadBit P off).toNat = bitAt P off :=
  Nat.toNat_testBit _ _

/-- A field's first bit weighs `2 ^ w` before the `w` bits that follow it (20_memory.md R52). -/
theorem field_succ_toNat (P : List Byte) (off w : Nat) :
    (field P off (w + 1)).toNat = bitAt P off * 2 ^ w + (field P (off + 1) w).toNat := by
  rw [field, BitVec.toNat_cons', payloadBit_toNat, Nat.shiftLeft_eq]

/-- A field of any payload is the number its bits spell; bits past the end are 0 (log 9). -/
theorem field_toNat_eq_sum (P : List Byte) (off w : Nat) :
    (field P off w).toNat = ∑ j ∈ Finset.range w, bitAt P (off + j) * 2 ^ (w - 1 - j) := by
  induction w generalizing off with
  | zero => rfl
  | succ w ih =>
    have hrest : ∀ j, bitAt P (off + 1 + j) * 2 ^ (w - 1 - j) = bitAt P (off + (j + 1)) * 2 ^ (w + 1 - 1 - (j + 1)) :=
      fun j => by congr 2 <;> omega
    rw [field_succ_toNat, ih, Finset.sum_congr rfl fun j _ => hrest j, Finset.sum_range_succ', Nat.add_comm]
    rfl

/-- Settles O17: by induction on the width (`field_toNat_eq_sum`), one bit at a time from the most significant. -/
theorem fieldIsTheNumberItsBitsSpell : Obligations.FieldIsTheNumberItsBitsSpell :=
  fun P off w _ => field_toNat_eq_sum P off w

/-! ### Payloads that agree below an offset -/

section Agree

variable {P Q : List Byte} {n : Nat} (h : ∀ k < n, payloadBit P k = payloadBit Q k)
include h

/-- A field that ends by offset `n` is read alike from payloads that agree below `n`. -/
theorem field_eq_of_agree (off w : Nat) (hw : off + w ≤ n) : field P off w = field Q off w :=
  field_congr P Q off w fun k _ hk => h k (by omega)

theorem quatField_eq_of_agree (off : Nat) (hoff : off + 64 ≤ n) : quatField P off = quatField Q off := by
  simp (disch := omega) only [quatField, field_eq_of_agree h]

theorem velField_eq_of_agree (off : Nat) (hoff : off + 12 ≤ n) : velField P off = velField Q off := by
  simp (disch := omega) only [velField, field_eq_of_agree h]

theorem slotField_eq_of_agree (i : Nat) (hi : 17 + 5 * i ≤ n) : slotField P i = slotField Q i := by
  simp (disch := omega) only [slotField, field_eq_of_agree h]

/-- The Gen4 decoder reads offsets below 92: the last are the velocities, 12 bits from offset 80. -/
theorem decodeGen4_eq_of_agree (hn : 92 ≤ n) : decodeGen4 P = decodeGen4 Q := by
  simp (disch := omega) only [decodeGen4, field_eq_of_agree h, quatField_eq_of_agree h, velField_eq_of_agree h]

/-- The Gen3 decoder reads offsets below 80: the last are the one-hot face, 6 bits from offset 74. -/
theorem decodeGen3_eq_of_agree (hn : 80 ≤ n) : decodeGen3 P = decodeGen3 Q := by
  simp (disch := omega) only [decodeGen3, field_eq_of_agree h]

/-- The Gen2 decoder reads offsets below 80: the last are the velocities, 12 bits from offset 68. -/
theorem decodeGen2_eq_of_agree (hn : 80 ≤ n) : decodeGen2 P = decodeGen2 Q := by
  simp (disch := omega) only [decodeGen2, field_eq_of_agree h, quatField_eq_of_agree h, velField_eq_of_agree h,
    slotField_eq_of_agree h]

/-- Every generation's decoder reads the same packet from payloads that agree below offset 92. -/
theorem decodePacket_eq_of_agree (hn : 92 ≤ n) (g : Generation) : decodePacket g P = decodePacket g Q := by
  cases g with
  | none => rfl
  | gen4 => exact congrArg some (decodeGen4_eq_of_agree h hn)
  | gen3 => exact congrArg some (decodeGen3_eq_of_agree h (by omega))
  | gen2 => exact congrArg some (decodeGen2_eq_of_agree h (by omega))

end Agree

/-- Payloads whose bits are the same numbers have the same bits. -/
theorem payloadBit_eq_of_bitAt {P Q : List Byte} {off : Nat} (h : bitAt P off = bitAt Q off) :
    payloadBit P off = payloadBit Q off :=
  Function.LeftInverse.injective Bool.ofNat_toNat (by rw [payloadBit_toNat, payloadBit_toNat, h])

/-- The accepted lengths are those of the configuration (41_decode_common.md R110). -/
theorem mem_payloadLengths_iff (l : Nat) : l ∈ Config.payloadLengths ↔ acceptedLength l := by
  simp [Config.payloadLengths, acceptedLength]

/-- Settles O18: without a generation DECODE reads no payload; with one, both payloads are the same packet
(`decodePacket_eq_of_agree`), whose instruction DECODE is. -/
theorem offsetsFrom92AreNeverRead : Obligations.OffsetsFrom92AreNeverRead := by
  intro s P Q hP hQ hbits
  by_cases hgen : s.gen = .none
  · rw [exec_decode_none P s hgen, exec_decode_none Q s hgen]
  · obtain ⟨p, hp, -⟩ := decodePacket_some s.gen P hgen
    have hagree : decodePacket s.gen P = decodePacket s.gen Q :=
      decodePacket_eq_of_agree (fun k hk => payloadBit_eq_of_bitAt (hbits k hk)) le_rfl s.gen
    rw [exec_decode_packet P s p hp ((mem_payloadLengths_iff _).mpr hP),
      exec_decode_packet Q s p (hagree ▸ hp) ((mem_payloadLengths_iff _).mpr hQ)]

end Sys2Proof.Machine
end

section
/-! The command records (spec/30_encoding.md R70 to R80): which words the opcode map has, and that the decoder and the
encoder are inverse to each other on the commands. -/

namespace Sys2Proof.Machine

open Sys2Proof.Spec Sys2Proof.Laws

/-! ### The words of the opcode map -/

/-- A word of one of the seven rows: it has the row's opcode, and the bits the row's format reserves are clear
(30_encoding.md R72, R73). -/
inductive LegalWord (w : CmdWord) : Prop where
  | nop (hopc : opcodeField w = 0x00#8) (hclear : w >>> 8 = 0#32)
  | reset (hopc : opcodeField w = 0x01#8) (hclear : w >>> 8 = 0#32)
  | setgen (hopc : opcodeField w = 0x02#8) (hclear : w >>> 11 = 0#32)
  | decode (hopc : opcodeField w = 0x10#8) (hclear : w >>> 16 = 0#32)
  | apply (hopc : opcodeField w = 0x20#8) (hclear : w >>> 13 = 0#32)
  | recon (hopc : opcodeField w = 0x30#8) (hclear : w >>> 8 = 0#32)
  | orient (hopc : opcodeField w = 0x40#8) (hclear : w >>> 8 = 0#32)

/-- A word that is of no row is refused as a word, whatever block comes with it (30_encoding.md R74, R75, log 6). -/
theorem legalWord_or_illegal (w : CmdWord) (b : OperandBlock) :
    LegalWord w ∨ decodeRecord { word := w, block := b } = .error .unassignedOpcode ∨
      decodeRecord { word := w, block := b } = .error .reservedBits := by
  by_cases hassigned : opcodeField w ∈ [0x00#8, 0x01#8, 0x02#8, 0x10#8, 0x20#8, 0x30#8, 0x40#8]
  · refine or_iff_not_imp_right.mpr fun hlegal => ?_
    have hclear : ∀ opc k, (opc, k) ∈ [(0x00#8, 8), (0x01#8, 8), (0x02#8, 11), (0x10#8, 16), (0x20#8, 13), (0x30#8, 8),
        (0x40#8, 8)] → opcodeField w = opc → w >>> k = 0#32 := fun opc k hrow hopc =>
      by_contra fun hk => hlegal (.inr (decodeRecord_reserved w b opc k hrow hopc hk))
    simp only [List.mem_cons, List.not_mem_nil, or_false] at hassigned
    obtain h | h | h | h | h | h | h := hassigned
    · exact .nop h (hclear _ 8 (by decide) h)
    · exact .reset h (hclear _ 8 (by decide) h)
    · exact .setgen h (hclear _ 11 (by decide) h)
    · exact .decode h (hclear _ 16 (by decide) h)
    · exact .apply h (hclear _ 13 (by decide) h)
    · exact .recon h (hclear _ 8 (by decide) h)
    · exact .orient h (hclear _ 8 (by decide) h)
  · exact .inr (.inl (decodeRecord_unassigned w b hassigned))

/-- Only a word of a row decodes. -/
theorem legalWord_of_decodeRecord {w : CmdWord} {b : OperandBlock} {i : Instr}
    (h : decodeRecord { word := w, block := b } = .ok i) : LegalWord w := by
  obtain hlegal | he | he := legalWord_or_illegal w b
  · exact hlegal
  · cases h.symm.trans he
  · cases h.symm.trans he

/-! ### The operand blocks -/

theorem withNoBlock_eq_ok_iff {i j : Instr} {b : OperandBlock} : withNoBlock i b = .ok j ↔ b = .none ∧ i = j := by
  cases b <;> simp [withNoBlock]

theorem withPayload_eq_ok_iff {len : BitVec 8} {b : OperandBlock} {j : Instr} :
    withPayload len b = .ok j ↔ ∃ P, b = .payload P ∧ P.length = len.toNat ∧ .decode P = j := by
  cases b with
  | payload P => by_cases hlen : P.length = len.toNat <;> simp [withPayload, hlen]
  | _ => simp [withPayload]

theorem withState_eq_ok_iff {b : OperandBlock} {j : Instr} :
    withState b = .ok j ↔ ∃ c, b = .state c ∧ .recon c = j := by
  cases b <;> simp [withState]

theorem withQuaternion_eq_ok_iff {b : OperandBlock} {j : Instr} :
    withQuaternion b = .ok j ↔ ∃ raw, b = .quaternion raw ∧ .orient raw = j := by
  cases b <;> simp [withQuaternion]

/-! ### Decode of encode -/

/-- The byte count is read back from the word (30_encoding.md R79). -/
theorem lenField_decodeCommand (P : List Byte) : lenField (decodeCommand P).word = BitVec.ofNat 8 P.length := by
  simp only [decodeCommand]
  generalize BitVec.ofNat 8 P.length = n
  revert n
  decide

/-- The record of a payload decodes to DECODE of it, whenever `LEN` can hold its byte count. -/
theorem decodeRecord_decodeCommand (P : List Byte) (h : P.length < 256) :
    decodeRecord (decodeCommand P) = .ok (.decode P) := by
  obtain ⟨hopc, hclear⟩ := (row_decode _).mp (EncodedWord.decodeCommand_word P)
  refine (decodeRecord_decode _ (.payload P) hopc hclear).trans (withPayload_eq_ok_iff.mpr ⟨P, rfl, ?_, rfl⟩)
  rw [lenField_decodeCommand, BitVec.toNat_ofNat, Nat.mod_eq_of_lt h]

theorem decodeRecord_encode_setgen (g : BitVec 3) : decodeRecord (encode (.setgen g)) = .ok (.setgen g) := by
  obtain ⟨hopc, hclear⟩ := (row_setgen _).mp (EncodedWord.setgen g rfl)
  have hg : genField (encode (.setgen g)).word = g := by
    revert g
    decide
  exact (decodeRecord_setgen _ .none hopc hclear).trans (by rw [hg]; rfl)

theorem decodeRecord_encode_apply (f : BitVec 3) (m : BitVec 2) :
    decodeRecord (encode (.apply f m)) = .ok (.apply f m) := by
  obtain ⟨hopc, hclear⟩ := (row_apply _).mp (EncodedWord.apply f m rfl)
  have hf : faceField (encode (.apply f m)).word = f := by
    revert f m
    decide
  have hm : modField (encode (.apply f m)).word = m := by
    revert f m
    decide
  exact (decodeRecord_apply _ .none hopc hclear).trans (by rw [hf, hm]; rfl)

/-- Settles O19: a command's word is of its row, and the row's fields and operand block give the operands back; words
without fields are decoded by computation. -/
theorem commandsDecodeFromTheirEncoding : Obligations.CommandsDecodeFromTheirEncoding := by
  intro i hwf hcommand
  cases i with
  | nop => rfl
  | reset => rfl
  | setgen g => exact decodeRecord_encode_setgen g
  | decode P => exact decodeRecord_decodeCommand P (of_decide_eq_true hwf)
  | apply f m => exact decodeRecord_encode_apply f m
  | recon c => exact decodeRecord_recon 0x00000030#32 (.state c) (by decide) (by decide)
  | orient raw => exact decodeRecord_orient 0x00000040#32 (.quaternion raw) (by decide) (by decide)
  | g4Move d o => exact absurd rfl (hcommand (.g4Move d o))
  | g4Orient raw v => exact absurd rfl (hcommand (.g4Orient raw v))
  | g4Unknown tag => exact absurd rfl (hcommand (.g4Unknown tag))
  | g3Dropped a b c => exact absurd rfl (hcommand (.g3Dropped a b c))
  | g3MoveA d o => exact absurd rfl (hcommand (.g3MoveA d o))
  | g3MoveB d o => exact absurd rfl (hcommand (.g3MoveB d o))
  | g3Unknown a b c => exact absurd rfl (hcommand (.g3Unknown a b c))
  | g2Snapshot c => exact absurd rfl (hcommand (.g2Snapshot c))
  | g2Batch c slots => exact absurd rfl (hcommand (.g2Batch c slots))
  | g2Orient raw v => exact absurd rfl (hcommand (.g2Orient raw v))
  | g2Unknown tag => exact absurd rfl (hcommand (.g2Unknown tag))

/-! ### Encode of decode -/

/-- A word whose reserved bits are clear is its opcode and the field of the `n` bits after it. -/
theorem word_eq_opcode_or_field {w : CmdWord} {opc : BitVec 8} (n : Nat) (hopc : opcodeField w = opc)
    (hclear : w >>> (8 + n) = 0#32) : w = opc.setWidth 32 ||| (w.extractLsb' 8 n).setWidth 32 <<< 8 := by
  subst hopc
  ext i hi
  have hhigh : 8 + n ≤ i → w.getLsbD i = false := fun hle => by
    have := congrArg (fun v => v.getLsbD (i - (8 + n))) hclear
    simpa [show 8 + n + (i - (8 + n)) = i by omega] using this
  simp [opcodeField]
  grind

/-- APPLY's five operand bits are its modifier above its face (30_encoding.md R72). -/
theorem applyField_eq (w : CmdWord) : (w.extractLsb' 8 5).setWidth 32 <<< 8 =
    (faceField w).setWidth 32 <<< 8 ||| (modField w).setWidth 32 <<< 11 := by
  ext i hi
  simp [faceField, modField]
  grind

/-- Settles O20: only a word of a row decodes (`legalWord_of_decodeRecord`), with the block its opcode fixes; such a
word is put together again from its opcode and its field (`word_eq_opcode_or_field`). -/
theorem decodedRecordsEncodeBack : Obligations.DecodedRecordsEncodeBack := by
  rintro ⟨w, b⟩ i h
  cases legalWord_of_decodeRecord h with
  | nop hopc hclear =>
    rw [decodeRecord_nop w b hopc hclear] at h
    obtain ⟨rfl, rfl⟩ := withNoBlock_eq_ok_iff.mp h
    exact ⟨rfl, by rw [(row_plain w _).mpr ⟨hopc, hclear⟩]; rfl⟩
  | reset hopc hclear =>
    rw [decodeRecord_reset w b hopc hclear] at h
    obtain ⟨rfl, rfl⟩ := withNoBlock_eq_ok_iff.mp h
    exact ⟨rfl, by rw [(row_plain w _).mpr ⟨hopc, hclear⟩]; rfl⟩
  | setgen hopc hclear =>
    rw [decodeRecord_setgen w b hopc hclear] at h
    obtain ⟨rfl, rfl⟩ := withNoBlock_eq_ok_iff.mp h
    exact ⟨rfl, congrArg (CommandRecord.mk · _) (word_eq_opcode_or_field 3 hopc hclear).symm⟩
  | decode hopc hclear =>
    rw [decodeRecord_decode w b hopc hclear] at h
    obtain ⟨P, rfl, hlen, rfl⟩ := withPayload_eq_ok_iff.mp h
    refine ⟨decide_eq_true (hlen ▸ (lenField w).isLt), ?_⟩
    have hword : (decodeCommand P).word = w := by
      rw [decodeCommand, hlen, BitVec.ofNat_toNat, BitVec.setWidth_eq]
      exact (word_eq_opcode_or_field 8 hopc hclear).symm
    exact congrArg (CommandRecord.mk · _) hword
  | apply hopc hclear =>
    rw [decodeRecord_apply w b hopc hclear] at h
    obtain ⟨rfl, rfl⟩ := withNoBlock_eq_ok_iff.mp h
    have hword := word_eq_opcode_or_field 5 hopc hclear
    rw [applyField_eq, ← BitVec.or_assoc] at hword
    exact ⟨rfl, congrArg (CommandRecord.mk · _) hword.symm⟩
  | recon hopc hclear =>
    rw [decodeRecord_recon w b hopc hclear] at h
    obtain ⟨c, rfl, rfl⟩ := withState_eq_ok_iff.mp h
    exact ⟨rfl, by rw [(row_plain w _).mpr ⟨hopc, hclear⟩]; rfl⟩
  | orient hopc hclear =>
    rw [decodeRecord_orient w b hopc hclear] at h
    obtain ⟨raw, rfl, rfl⟩ := withQuaternion_eq_ok_iff.mp h
    exact ⟨rfl, by rw [(row_plain w _).mpr ⟨hopc, hclear⟩]; rfl⟩

/-! ### Records that are refused -/

/-- A word of no row raises ILLEGAL_CMD (60_exceptions.md R205). -/
theorem step_present_of_not_legalWord (s : State) (w : CmdWord) (b : OperandBlock) (h : ¬ LegalWord w) :
    step (s.present { word := w, block := b }) = .next (raised 0x20#32 s) := by
  obtain hlegal | he | he := legalWord_or_illegal w b
  · exact absurd hlegal h
  · rw [step_present, he]
    rfl
  · rw [step_present, he]
    rfl

/-- Settles O8: a word that meets no row's match and mask is no legal word (`row_iff`). -/
theorem wordsOfNoRowRaiseIllegalCmd : Obligations.WordsOfNoRowRaiseIllegalCmd := by
  intro s w b hnop hreset hsetgen hdecode happly hrecon horient
  refine step_present_of_not_legalWord s w b fun hlegal => ?_
  cases hlegal with
  | nop hopc hclear => exact hnop ((row_plain w _).mpr ⟨hopc, hclear⟩)
  | reset hopc hclear => exact hreset ((row_plain w _).mpr ⟨hopc, hclear⟩)
  | setgen hopc hclear => exact hsetgen ((row_setgen w).mpr ⟨hopc, hclear⟩)
  | decode hopc hclear => exact hdecode ((row_decode w).mpr ⟨hopc, hclear⟩)
  | apply hopc hclear => exact happly ((row_apply w).mpr ⟨hopc, hclear⟩)
  | recon hopc hclear => exact hrecon ((row_plain w _).mpr ⟨hopc, hclear⟩)
  | orient hopc hclear => exact horient ((row_plain w _).mpr ⟨hopc, hclear⟩)

/-- Settles O9: a word of DECODE's row asks for a payload of `LEN` bytes. -/
theorem recordLengthIsCheckedByTheEncoding : Obligations.RecordLengthIsCheckedByTheEncoding := by
  intro s w P hrow
  obtain ⟨hopc, hclear⟩ := (row_decode w).mp hrow
  have hdecode := decodeRecord_decode w (.payload P) hopc hclear
  constructor
  · intro hlen
    have hrefused : withPayload (lenField w) (.payload P) = .error .payloadLength := if_neg hlen
    rw [step_present, hdecode, hrefused]
    rfl
  · intro hlen
    exact hdecode.trans (withPayload_eq_ok_iff.mpr ⟨P, rfl, hlen, rfl⟩)

/-- Settles O22: each sample is decoded by computation. -/
theorem sampleWordsDecode : Obligations.SampleWordsDecode := by
  unfold Obligations.SampleWordsDecode
  decide

end Sys2Proof.Machine
end

section
/-! The packets (spec/30_encoding.md R81 to R83): each generation's decoder reads back what the encoder placed. -/

namespace Sys2Proof.Machine

/-- Velocities are their three components. -/
theorem velocity_eta (v : Velocity) : #v[v[0], v[1], v[2]] = v := by
  ext i hi
  interval_cases i <;> rfl

/-- A batch's slot is read where it was placed: the tag, the counter and the other slots lie outside its five bits
(30_encoding.md R82). -/
theorem slotField_g2Batch_payload (c : Byte) (slots : Vector Slot 7) (i : Fin 7) :
    slotField (Packet.g2Batch c slots).payload i = slots[i] := by
  fin_cases i <;>
    simp (disch := omega) [slotField, Packet.payload, Packet.bits, placeSlot, field_payloadOf_or,
      field_placeField_same, field_placeField_disjoint]

/-- Gen4: the tag selects the kind, and the kind's fields lie side by side (30_encoding.md R81). -/
theorem decodeGen4_payload (p : Packet) (hgen : p.generation = .gen4) (hwf : p.toInstr.wellFormed = true) :
    decodeGen4 p.payload = p := by
  cases p with
  | g4Move d o =>
    simp (disch := omega) [decodeGen4, Packet.payload, Packet.bits, field_payloadOf_or, field_placeField_same,
      field_placeField_disjoint]
  | g4Orient raw v =>
    simp (disch := omega) [decodeGen4, Packet.payload, Packet.bits, placeQuat, quatField, placeVel, velField,
      field_payloadOf_or, field_placeField_same, field_placeField_disjoint, velocity_eta]
  | g4Unknown tag =>
    have hread : field (Packet.g4Unknown tag).payload 0 8 = tag := field_placeField_same 0 tag (by omega)
    obtain ⟨hmove, horient⟩ := of_decide_eq_true hwf
    simp [decodeGen4, hread, hmove, horient]
  | _ => cases hgen

/-- Gen3: the frame's bytes 0 and 2 select the check it passes, byte 1 the kind (30_encoding.md R83). -/
theorem decodeGen3_payload (p : Packet) (hgen : p.generation = .gen3) (hwf : p.toInstr.wellFormed = true) :
    decodeGen3 p.payload = p := by
  cases p with
  | g3Dropped magic tag b2 =>
    obtain ⟨hmagic, hb2⟩ := of_decide_eq_true hwf
    simp (disch := omega) [decodeGen3, Packet.payload, Packet.bits, field_payloadOf_or, field_placeField_same,
      field_placeField_disjoint, hmagic, hb2]
  | g3MoveA d o =>
    simp (disch := omega) [decodeGen3, Packet.payload, Packet.bits, field_payloadOf_or, field_placeField_same,
      field_placeField_disjoint]
  | g3MoveB d o =>
    simp (disch := omega) [decodeGen3, Packet.payload, Packet.bits, field_payloadOf_or, field_placeField_same,
      field_placeField_disjoint]
  | g3Unknown magic tag b2 =>
    obtain ⟨hvalid, htag⟩ := of_decide_eq_true hwf
    simp (disch := omega) [decodeGen3, Packet.payload, Packet.bits, field_payloadOf_or, field_placeField_same,
      field_placeField_disjoint, hvalid, htag]
  | _ => cases hgen

/-- Gen2: the tag's four bits select the kind (30_encoding.md R81, R82). -/
theorem decodeGen2_payload (p : Packet) (hgen : p.generation = .gen2) (hwf : p.toInstr.wellFormed = true) :
    decodeGen2 p.payload = p := by
  cases p with
  | g2Snapshot c =>
    simp (disch := omega) [decodeGen2, Packet.payload, Packet.bits, field_payloadOf_or, field_placeField_same,
      field_placeField_disjoint]
  | g2Batch c slots =>
    have htag : field (Packet.g2Batch c slots).payload 0 4 = 0x2#4 := by
      simp (disch := omega) [Packet.payload, Packet.bits, placeSlot, field_payloadOf_or, field_placeField_same,
        field_placeField_disjoint]
    have hcounter : field (Packet.g2Batch c slots).payload 4 8 = c := by
      simp (disch := omega) [Packet.payload, Packet.bits, placeSlot, field_payloadOf_or, field_placeField_same,
        field_placeField_disjoint]
    simp [decodeGen2, htag, hcounter, slotField_g2Batch_payload]
  | g2Orient raw v =>
    simp (disch := omega) [decodeGen2, Packet.payload, Packet.bits, placeQuat, quatField, placeVel, velField,
      field_payloadOf_or, field_placeField_same, field_placeField_disjoint, velocity_eta]
  | g2Unknown tag =>
    have hread : field (Packet.g2Unknown tag).payload 0 4 = tag := field_placeField_same 0 tag (by omega)
    obtain ⟨horient, hbatch, hsnapshot⟩ := of_decide_eq_true hwf
    simp [decodeGen2, hread, horient, hbatch, hsnapshot]
  | _ => cases hgen

/-- Every packet's payload is read back by its generation's decoder. -/
theorem decodePacket_payload (p : Packet) (hwf : p.toInstr.wellFormed = true) :
    decodePacket p.generation p.payload = some p := by
  cases hgen : p.generation with
  | none => cases p <;> cases hgen
  | gen4 => exact congrArg some (decodeGen4_payload p hgen hwf)
  | gen3 => exact congrArg some (decodeGen3_payload p hgen hwf)
  | gen2 => exact congrArg some (decodeGen2_payload p hgen hwf)

/-- A packet's record is a DECODE of its payload (30_encoding.md R85). -/
theorem encode_toInstr (p : Packet) : encode p.toInstr = decodeCommand p.payload := by cases p <;> rfl

/-- A packet's payload has 20 bytes (log 19). -/
theorem payload_length (p : Packet) : p.payload.length = 20 := payloadOf_length p.bits

/-- Settles O21: the decoder of the packet's generation reads it back (`decodePacket_payload`), and 20 bytes are within
what `LEN` can hold. -/
theorem packetsDecodeFromTheirPayload : Obligations.PacketsDecodeFromTheirPayload := by
  intro p hwf
  refine ⟨decodePacket_payload p hwf, payload_length p, ?_⟩
  rw [encode_toInstr]
  exact decodeRecord_decodeCommand p.payload (by rw [payload_length]; decide)

end Sys2Proof.Machine
end

section
/-! The assembler's move tokens and formulas (spec/30_encoding.md R86, R87). -/

namespace Sys2Proof.Machine

open Sys2Proof.Spec

/-! ### Move tokens -/

/-- The letter of a face (30_encoding.md R86). -/
def faceLetter : Face → Char
  | .u => 'U'
  | .r => 'R'
  | .f => 'F'
  | .d => 'D'
  | .l => 'L'
  | .b => 'B'

/-- What follows the letter (30_encoding.md R86). -/
def modifierSuffix : Modifier → List Char
  | .cw => []
  | .ccw => ['\'']
  | .half => ['2']

theorem tokenText_eq (m : Face × Modifier) : tokenText m = faceLetter m.1 :: modifierSuffix m.2 := by
  obtain ⟨face, mod⟩ := m
  cases face <;> cases mod <;> rfl

theorem faceOfLetter_eq_some_iff (ch : Char) (face : Face) : faceOfLetter ch = some face ↔ ch = faceLetter face := by
  constructor
  · unfold faceOfLetter
    intro h
    split_ifs at h <;> cases h <;> assumption
  · rintro rfl
    cases face <;> rfl

theorem modifierOfSuffix_eq_some_iff (text : List Char) (mod : Modifier) :
    modifierOfSuffix text = some mod ↔ text = modifierSuffix mod := by
  constructor
  · intro h
    match text with
    | [] =>
      cases h
      rfl
    | [ch] =>
      rw [modifierOfSuffix] at h
      split_ifs at h with hccw hhalf
      · cases h
        exact congrArg (· :: []) hccw
      · cases h
        exact congrArg (· :: []) hhalf
    | _ :: _ :: _ => cases h
  · rintro rfl
    cases mod <;> rfl

/-- A token is its face's letter and its modifier's suffix. -/
theorem moveOfToken_eq_some_iff (tok : List Char) (m : Face × Modifier) :
    moveOfToken tok = some m ↔ tok = tokenText m := by
  rw [tokenText_eq]
  cases tok with
  | nil => simp [moveOfToken]
  | cons ch rest =>
    obtain ⟨face, mod⟩ := m
    simp [moveOfToken, Option.bind_eq_some_iff, faceOfLetter_eq_some_iff, modifierOfSuffix_eq_some_iff]

theorem moveOfToken_tokenText (m : Face × Modifier) : moveOfToken (tokenText m) = some m :=
  (moveOfToken_eq_some_iff _ m).mpr rfl

/-- A face is one of "URFDLB", its code the index there (30_encoding.md R76). -/
theorem exists_face_index (face : Face) : ∃ k : Fin 6, faceURFDLB k = face ∧ faceCode face = BitVec.ofNat 3 k := by
  cases face <;> decide

/-- A modifier's code is 0 for CW, 1 for CCW, 2 for HALF (30_encoding.md R77). -/
theorem exists_modifier_index (mod : Modifier) :
    ∃ j : Fin 3, (j = 0 ↔ mod = .cw) ∧ (j = 1 ↔ mod = .ccw) ∧ modifierCode mod = BitVec.ofNat 2 j := by
  cases mod <;> decide

/-- The word of APPLY as a number: the face from bit 8, the modifier from bit 11 (30_encoding.md R72). -/
theorem encode_apply_word (k : Fin 6) (j : Fin 3) : (encode (.apply (BitVec.ofNat 3 k) (BitVec.ofNat 2 j))).word =
    BitVec.ofNat 32 (0x20 + k.val * 256 + j.val * 2048) := by
  revert k j
  decide

/-- Settles O52: letter and suffix are read one by one (`moveOfToken_eq_some_iff`), and their codes are the indices that
stand in APPLY's word. -/
theorem moveTokensAreLetterAndSuffix : Obligations.MoveTokensAreLetterAndSuffix := by
  refine ⟨moveOfToken_eq_some_iff, fun m => ?_⟩
  obtain ⟨k, hface, hk⟩ := exists_face_index m.1
  obtain ⟨j, hcw, hccw, hj⟩ := exists_modifier_index m.2
  exact ⟨k, j, hface, hcw, hccw, by rw [applyOfMove, hk, hj, encode_apply_word]⟩

/-! ### Formulas -/

/-- A text that spaces can separate. -/
def IsWord (w : List Char) : Prop := w ≠ [] ∧ ' ' ∉ w

theorem isWord_tokenText (m : Face × Modifier) : IsWord (tokenText m) := by
  obtain ⟨face, mod⟩ := m
  cases face <;> cases mod <;> exact ⟨by decide, by decide⟩

/-- Words separated by one or more spaces are the tokens of the text. -/
theorem tokens_spaced (ws : List (List Char × Nat)) (h : ∀ w ∈ ws, IsWord w.1) :
    tokens (spaced ws) = ws.map Prod.fst := by
  induction ws with
  | nil => rfl
  | cons w ws ih =>
    obtain ⟨⟨hne, hspace⟩, hrest⟩ := List.forall_mem_cons.mp h
    cases ws with
    | nil => exact tokens_word w.1 hne hspace
    | cons next ws =>
      have htext : spaced (w :: next :: ws) = w.1 ++ ' ' :: (List.replicate w.2 ' ' ++ spaced (next :: ws)) := by
        simp [spaced, List.replicate_succ]
      rw [htext, tokens_word_space w.1 hne hspace, tokens_spaces, ih hrest]
      rfl

/-- A formula of separated words converts them one by one. -/
theorem assembleFormula_spaced (ws : List (List Char × Nat)) (h : ∀ w ∈ ws, IsWord w.1) :
    assembleFormula (spaced ws) = (convertAll moveOfToken (ws.map Prod.fst)).map (List.map applyOfMove) := by
  rw [assembleFormula, tokens_spaced ws h]

/-- Settles O53: the tokens of separated words are the words (`tokens_spaced`), and the conversion of a list succeeds on
every element or not at all (`convertAll_map`, `convertAll_none`). -/
theorem formulaIsItsTokensInOrder : Obligations.FormulaIsItsTokensInOrder := by
  refine ⟨rfl, fun ms => ?_, fun ws hwords ⟨w, hw, hbad⟩ => ?_⟩
  · have hwords : ∀ w ∈ ms.map fun m => (tokenText m.1, m.2), IsWord w.1 :=
      List.forall_mem_map.mpr fun m _ => isWord_tokenText m.1
    have hfst : (ms.map fun m => (tokenText m.1, m.2)).map Prod.fst = ms.map fun m => tokenText m.1 := List.map_map
    have hconvert : convertAll moveOfToken (ms.map fun m => tokenText m.1) = some (ms.map Prod.fst) :=
      convertAll_map moveOfToken (fun m => tokenText m.1) Prod.fst (fun m => moveOfToken_tokenText m.1) ms
    rw [assembleFormula_spaced _ hwords, hfst, hconvert]
    exact congrArg some List.map_map
  · rw [assembleFormula_spaced ws hwords, convertAll_none moveOfToken w.1 hbad _ (List.mem_map_of_mem hw)]
    rfl

end Sys2Proof.Machine
end

section
/-! The cube (spec/40_cube_state.md): APPLY by its operands, the moves of one face as quarter turns, and the decoders as
the moves they emit. -/

namespace Sys2Proof.Machine

open Sys2Proof.Spec Sys2Proof.Laws

/-! ### The operands of APPLY -/

theorem faceOfCode_of_gt {n : Nat} (h : 5 < n) : faceOfCode n = none := by
  match n, h with
  | _ + 6, _ => rfl

@[simp] theorem faceOfCode_faceCode (face : Face) : faceOfCode (faceCode face).toNat = some face := by
  cases face <;> rfl

@[simp] theorem modifierOfCode_modifierCode (mod : Modifier) : modifierOfCode (modifierCode mod) = some mod := by
  cases mod <;> rfl

theorem faceCode_faceURFDLB (k : Fin 6) : faceCode (faceURFDLB k) = BitVec.ofNat 3 k := by
  revert k
  decide

/-- A code up to 5 is the code of a face (30_encoding.md R76). -/
theorem exists_faceCode {f : BitVec 3} (h : f.toNat ≤ 5) : ∃ face, faceCode face = f :=
  ⟨faceURFDLB ⟨f.toNat, by omega⟩, by rw [faceCode_faceURFDLB, BitVec.ofNat_toNat, BitVec.setWidth_eq]⟩

/-- A modifier field is the code of a modifier, or 3 (30_encoding.md R77). -/
theorem modifierCode_or_three (m : BitVec 2) : m = 3#2 ∨ ∃ mod, modifierCode mod = m := by
  match m with
  | 0#2 => exact .inr ⟨.cw, rfl⟩
  | 1#2 => exact .inr ⟨.ccw, rfl⟩
  | 2#2 => exact .inr ⟨.half, rfl⟩
  | 3#2 => exact .inl rfl

/-- The ways APPLY's checks can come out, in their order (R101). -/
inductive ApplyOperands : BitVec 3 → BitVec 2 → Prop where
  | badFace (f : BitVec 3) (m : BitVec 2) (h : 5 < f.toNat) : ApplyOperands f m
  | badModifier (face : Face) : ApplyOperands (faceCode face) 3#2
  | move (face : Face) (mod : Modifier) : ApplyOperands (faceCode face) (modifierCode mod)

theorem applyOperands (f : BitVec 3) (m : BitVec 2) : ApplyOperands f m := by
  by_cases h : 5 < f.toNat
  · exact .badFace f m h
  · obtain ⟨face, rfl⟩ := exists_faceCode (not_lt.mp h)
    obtain rfl | ⟨mod, rfl⟩ := modifierCode_or_three m
    · exact .badModifier face
    · exact .move face mod

theorem completeOk_eq_finished (s : State) : completeOk s = finished s :=
  congrArg (fun r => { s with result := r }) okResult_eq_empty

theorem exec_apply_badFace {f : BitVec 3} (h : 5 < f.toNat) (m : BitVec 2) (s : State) :
    exec (.apply f m) s = .next (raised 0x21#32 s) := by
  simp only [exec, execApply, faceOfCode_of_gt h]
  rfl

theorem exec_apply_badModifier (face : Face) (s : State) :
    exec (.apply (faceCode face) 3#2) s = .next (raised 0x22#32 s) := by
  simp only [exec, execApply, faceOfCode_faceCode]
  rfl

theorem exec_apply_move (face : Face) (mod : Modifier) (s : State) :
    exec (.apply (faceCode face) (modifierCode mod)) s =
      .next (finished { s with cube := applyMove Config.moveTables face mod s.cube }) := by
  simp only [exec, execApply, faceOfCode_faceCode, modifierOfCode_modifierCode, completeOk_eq_finished]

/-- Settles O37: APPLY with CW is one quarter turn, which is said lane by lane (`quarterTurn_cp` and its like). -/
theorem applyClockwiseIsOneQuarterTurn : Obligations.ApplyClockwiseIsOneQuarterTurn := by
  intro k s T
  rw [← faceCode_faceURFDLB k]
  exact ⟨_, exec_apply_move (faceURFDLB k) .cw s, rfl, fun i => ⟨quarterTurn_cp T s.cube i, quarterTurn_co T s.cube i⟩,
    fun j => ⟨quarterTurn_ep T s.cube j, quarterTurn_eo T s.cube j⟩⟩

/-- Settles O40: a raised status keeps the cube, and a move keeps validity and the sums (`applyMove_valid` and its
like). -/
theorem movesKeepTheInvariantAndTheSums : Obligations.MovesKeepTheInvariantAndTheSums := by
  intro f m s t h
  cases applyOperands f m with
  | badFace _ _ hf =>
    cases h.symm.trans (exec_apply_badFace hf m s)
    exact ⟨id, rfl, rfl⟩
  | badModifier face =>
    cases h.symm.trans (exec_apply_badModifier face s)
    exact ⟨id, rfl, rfl⟩
  | move face mod =>
    cases h.symm.trans (exec_apply_move face mod s)
    exact ⟨applyMove_valid _ face mod s.cube, applyMove_coSum _ face mod s.cube, applyMove_eoSum _ face mod s.cube⟩

/-! ### Sequences of moves -/

theorem execAll_cons {i : Instr} {s t : State} (h : exec i s = .next t) (is : List Instr) :
    execAll (i :: is) s = execAll is t := by
  simp only [execAll, h]

theorem exec_applyOfMove (m : Face × Modifier) (s : State) : exec (applyOfMove m) s =
    .next (finished { s with cube := applyMove Config.moveTables m.1 m.2 s.cube }) :=
  exec_apply_move m.1 m.2 s

/-- APPLYs in a row complete, with the cube of their moves in that order. -/
theorem execAll_applyOfMove (m : Face × Modifier) (ms : List (Face × Modifier)) (s : State) :
    execAll ((m :: ms).map applyOfMove) s =
      .next (finished { s with cube := applyMoves Config.moveTables (m :: ms) s.cube }) := by
  rw [List.map_cons, execAll_cons (exec_applyOfMove m s)]
  induction ms generalizing m s with
  | nil => rfl
  | cons m' ms ih =>
    rw [List.map_cons, execAll_cons (exec_applyOfMove m' _), ih]
    rfl

/-- Moves of one face are as many quarter turns as their modifiers stand for together (R102). -/
theorem applyMoves_one_face (M : MoveTables) (face : Face) (mods : List Modifier) (c : CubeState) :
    applyMoves M (mods.map fun mod => (face, mod)) c = turnTimes (M.table face) (mods.map quarterTurns).sum c := by
  induction mods generalizing c with
  | nil => rfl
  | cons mod mods ih => rw [List.map_cons, applyMoves_cons, ih, List.map_cons, List.sum_cons, turnTimes_add]; rfl

/-- APPLYs of one face in a row (R102). -/
theorem execAll_apply_one_face (face : Face) (mod : Modifier) (mods : List Modifier) (s : State) :
    execAll ((mod :: mods).map fun mod => .apply (faceCode face) (modifierCode mod)) s =
      .next (finished { s with
        cube := turnTimes (Config.moveTables.table face) ((mod :: mods).map quarterTurns).sum s.cube }) := by
  rw [← applyMoves_one_face]
  have h := execAll_applyOfMove (face, mod) (mods.map fun mod => (face, mod)) s
  rw [← List.map_cons (f := fun mod => (face, mod)), List.map_map] at h
  exact h

/-- HALF is two quarter turns (R102). -/
theorem exec_apply_half (face : Face) (s : State) : exec (.apply (faceCode face) 2#2) s =
    execAll [.apply (faceCode face) 0#2, .apply (faceCode face) 0#2] s :=
  (exec_apply_move face .half s).trans (execAll_apply_one_face face .cw [.cw] s).symm

/-- CCW is three quarter turns (R102). -/
theorem exec_apply_ccw (face : Face) (s : State) : exec (.apply (faceCode face) 1#2) s =
    execAll [.apply (faceCode face) 0#2, .apply (faceCode face) 0#2, .apply (faceCode face) 0#2] s :=
  (exec_apply_move face .ccw s).trans (execAll_apply_one_face face .cw [.cw, .cw] s).symm

/-- Settles O38: a word of APPLY's row decodes to its fields (`decodeRecord_apply`), and a set reserved bit is judged
before the operand block (`decodeRecord_reserved`). How APPLY ends depends on its operands and the cube alone
(`applyOperands`), so not on GEN, and HALF and CCW make the quarter turns of two and three CW. -/
theorem applyChecksThenTurns : Obligations.ApplyChecksThenTurns := by
  refine ⟨fun w hrow => ?_, fun s w b hopc hreserved => ?_, fun f m s g => ?_, fun f s => ⟨fun m hf => ?_, fun hf => ?_,
    fun hf => ?_⟩⟩
  · obtain ⟨hopc, hclear⟩ := (row_apply w).mp hrow
    exact decodeRecord_apply w .none hopc hclear
  · rw [step_present, decodeRecord_reserved w b 0x20#8 13 (by decide) hopc hreserved]
    rfl
  · cases applyOperands f m with
    | badFace _ _ hf => exact ⟨_, exec_apply_badFace hf m s, exec_apply_badFace hf m _⟩
    | badModifier face => exact ⟨_, exec_apply_badModifier face s, exec_apply_badModifier face _⟩
    | move face mod => exact ⟨_, exec_apply_move face mod s, exec_apply_move face mod _⟩
  · exact exec_apply_badFace hf m s
  · obtain ⟨face, rfl⟩ := exists_faceCode hf
    exact exec_apply_badModifier face s
  · obtain ⟨face, rfl⟩ := exists_faceCode hf
    exact ⟨⟨_, exec_apply_move face .cw s, rfl⟩, exec_apply_half face s, exec_apply_ccw face s⟩

/-! ### The laws of moves -/

/-- Turns of a face count modulo 4 (WT4). -/
theorem turnTimes_congr {T : FaceTable} (hT : WellTabled T) {c : CubeState} (hc : coInRange c = true) {m n : Nat}
    (h : m % 4 = n % 4) : turnTimes T m c = turnTimes T n c := by
  have hmod : ∀ k, turnTimes T k c = turnTimes T (k % 4) c := fun k => by
    conv_lhs => rw [← Nat.div_add_mod k 4]
    rw [turnTimes_add, turnTimes_four_mul hT _ c hc]
  rw [hmod m, hmod n, h]

/-- APPLYs of one face whose quarter turns make full circles change nothing but RESULT. -/
theorem execAll_full_circle (face : Face) (mod : Modifier) (mods : List Modifier) (s : State)
    (hc : coInRange s.cube = true) (h : ((mod :: mods).map quarterTurns).sum % 4 = 0) :
    execAll ((mod :: mods).map fun mod => .apply (faceCode face) (modifierCode mod)) s = .next (finished s) := by
  rw [execAll_apply_one_face, turnTimes_congr (Config.moveTables.wellTabled face) hc (n := 0) h]
  rfl

/-- APPLYs of one face that make as many quarter turns modulo 4 end in the same state. -/
theorem execAll_same_turns (face : Face) (mod : Modifier) (mods : List Modifier) (mod' : Modifier)
    (mods' : List Modifier) (s : State) (hc : coInRange s.cube = true)
    (h : ((mod :: mods).map quarterTurns).sum % 4 = ((mod' :: mods').map quarterTurns).sum % 4) :
    execAll ((mod :: mods).map fun mod => .apply (faceCode face) (modifierCode mod)) s =
      execAll ((mod' :: mods').map fun mod => .apply (faceCode face) (modifierCode mod)) s := by
  rw [execAll_apply_one_face, execAll_apply_one_face, turnTimes_congr (Config.moveTables.wellTabled face) hc h]

/-- Any sequence of APPLYs keeps the orientation sums (R105). -/
theorem execAll_apply_sums (ms : List (BitVec 3 × BitVec 2)) (s t : State)
    (h : execAll (ms.map fun m => .apply m.1 m.2) s = .next t) :
    (∑ i : Fin 8, t.cube.co[i].toNat) % 3 = (∑ i : Fin 8, s.cube.co[i].toNat) % 3 ∧
    (∑ j : Fin 12, t.cube.eo[j].toNat) % 2 = (∑ j : Fin 12, s.cube.eo[j].toNat) % 2 := by
  induction ms generalizing s with
  | nil =>
    cases h
    exact ⟨rfl, rfl⟩
  | cons m ms ih =>
    obtain ⟨u, hu, -⟩ := exec_effect (.apply m.1 m.2) s
    obtain ⟨-, hco, heo⟩ := movesKeepTheInvariantAndTheSums m.1 m.2 s u hu
    obtain ⟨hco', heo'⟩ := ih u ((execAll_cons hu _).symm.trans h)
    exact ⟨hco'.trans hco, heo'.trans heo⟩

/-- Settles O39: each law is a count of quarter turns modulo 4. -/
theorem movesOfOneFaceCancel : Obligations.MovesOfOneFaceCancel := by
  intro f s hf hco
  obtain ⟨face, rfl⟩ := exists_faceCode hf
  have hc := (coInRange_iff s.cube).mpr hco
  exact ⟨execAll_full_circle face .cw [.cw, .cw, .cw] s hc rfl, execAll_full_circle face .half [.half] s hc rfl,
    execAll_full_circle face .ccw [.ccw, .ccw, .ccw] s hc rfl, execAll_full_circle face .cw [.ccw] s hc rfl,
    execAll_full_circle face .ccw [.cw] s hc rfl, exec_apply_half face s,
    (exec_apply_half face s).trans (execAll_same_turns face .cw [.cw] .ccw [.ccw] s hc rfl),
    exec_apply_ccw face s, fun ms t => execAll_apply_sums ms s t⟩

/-! ### The moves a decoder emits -/

/-- From `s` to `t` the moves `ms` were emitted, oldest first, and made the cube (R106). -/
structure Emits (ms : List (Face × Modifier)) (s t : State) : Prop where
  cube : t.cube = applyMoves Config.moveTables ms s.cube
  codes : t.result.mv.toList.take t.result.n.toNat = ms.map fun m => moveCode m.1 m.2

theorem decodeOneHotMove_emits (d : BitVec 2) (o : BitVec 6) (s : State) : ∃ ms, Emits ms s (decodeOneHotMove d o s) := by
  unfold decodeOneHotMove
  split
  · exact ⟨[], rfl, rfl⟩
  · next k _ => exact ⟨[(remappedFace Config.faceRemap k, dirToMod Config.dir3IsCcw d)], rfl, rfl⟩

theorem seededBatch_emits (c : Byte) (slots : Vector Slot 7) (s : State) : ∃ ms, Emits ms s (seededBatch c slots s) := by
  by_cases hp : pendingCount (counterDelta c s.trkLast) = 0
  · rw [(seededBatch_none c slots s hp).1]
    exact ⟨[], rfl, rfl⟩
  · obtain ⟨mv, hmv, hlen, he⟩ := seededBatch_new c slots s hp
    rw [he]
    refine ⟨_, rfl, ?_⟩
    rw [BitVec.toNat_ofNat, Nat.mod_eq_of_lt (Nat.lt_succ_of_le hlen), hmv, List.take_left' (List.length_map _)]

theorem packet_emits {p : Packet} {s t : State} (h : exec p.toInstr s = .next t) : ∃ ms, Emits ms s t := by
  cases p with
  | g4Move d o => cases h; exact decodeOneHotMove_emits d o s
  | g4Orient => cases h; exact ⟨[], rfl, rfl⟩
  | g4Unknown => cases h; exact ⟨[], rfl, rfl⟩
  | g3Dropped => cases h; exact ⟨[], rfl, rfl⟩
  | g3MoveA d o => cases h; exact decodeOneHotMove_emits d o s
  | g3MoveB d o => cases h; exact decodeOneHotMove_emits d o s
  | g3Unknown => cases h; exact ⟨[], rfl, rfl⟩
  | g2Snapshot c => cases h; exact ⟨[], snapshot_cube _ c s, by rw [snapshot_result]; rfl⟩
  | g2Batch c slots =>
    replace h : execG2Batch c slots s = .next t := h
    unfold execG2Batch at h
    split at h
    · cases h; exact ⟨[], rfl, rfl⟩
    · cases h; exact seededBatch_emits c slots s
  | g2Orient => cases h; exact ⟨[], rfl, rfl⟩
  | g2Unknown => cases h; exact ⟨[], rfl, rfl⟩

/-- DECODE emits what its packet emits, and nothing when it raises a status. -/
theorem decode_emits {P : List Byte} {s t : State} (h : exec (.decode P) s = .next t) : ∃ ms, Emits ms s t := by
  obtain ⟨-, he⟩ | ⟨-, -, he⟩ | ⟨-, p, -, -, he⟩ := exec_decode_cases P s
  · cases h.symm.trans he
    exact ⟨[], rfl, rfl⟩
  · cases h.symm.trans he
    exact ⟨[], rfl, rfl⟩
  · exact packet_emits (he.symm.trans h)

/-- The fields of a move code are its face's and its modifier's code (10_state.md R26). -/
theorem applyOfCode_moveCode (m : Face × Modifier) : applyOfCode (moveCode m.1 m.2) = applyOfMove m := by
  obtain ⟨face, mod⟩ := m
  cases face <;> cases mod <;> rfl

theorem map_applyOfCode_moveCode (ms : List (Face × Modifier)) :
    (ms.map fun m => moveCode m.1 m.2).map applyOfCode = ms.map applyOfMove := by
  simp [applyOfCode_moveCode]

/-- Settles O32: the emitted codes are the moves that made the cube (`Emits`), and their APPLYs make them again. -/
theorem emittedMovesAreAppliedOldestFirst : Obligations.EmittedMovesAreAppliedOldestFirst := by
  intro i s t hi h
  have hemits : ∃ ms, Emits ms s t := by
    obtain ⟨P, rfl⟩ | ⟨p, rfl⟩ := hi
    · exact decode_emits h
    · exact packet_emits h
  obtain ⟨ms, hcube, hcodes⟩ := hemits
  rw [hcodes, map_applyOfCode_moveCode, hcube]
  cases ms with
  | nil => exact ⟨s, rfl, rfl⟩
  | cons m ms => exact ⟨_, execAll_applyOfMove m ms s, rfl⟩

/-! ### Who writes the cube -/

theorem exec_setgen_cube {g : BitVec 3} {s t : State} (h : exec (.setgen g) s = .next t) : t.cube = s.cube := by
  replace h : execSetgen g s = .next t := h
  unfold execSetgen at h
  split at h
  · cases h; rfl
  · split at h <;> cases h <;> rfl

theorem exec_recon_cube {c : CubeState} {s t : State} (h : exec (.recon c) s = .next t) :
    t.cube = s.cube ∨ t.cube = c := by
  replace h : execRecon c s = .next t := h
  unfold execRecon at h
  split at h
  · cases h; exact .inl rfl
  · split at h <;> cases h <;> exact .inr rfl

/-- `c` is the cube that successful APPLYs of some move codes make of the cube of `s` (R108). -/
def MovedTo (s : State) (c : CubeState) : Prop :=
  ∃ (codes : List MoveCode) (u : State), execAll (codes.map applyOfCode) s = .next u ∧ u.result.code = 0 ∧ c = u.cube

theorem movedTo_applyMoves {ms : List (Face × Modifier)} {s : State} {c : CubeState}
    (hc : c = applyMoves Config.moveTables ms s.cube) (hne : c ≠ s.cube) : MovedTo s c := by
  cases ms with
  | nil => exact absurd hc hne
  | cons m ms =>
    have hrun := execAll_applyOfMove m ms s
    rw [← map_applyOfCode_moveCode] at hrun
    exact ⟨_, _, hrun, rfl, hc⟩

theorem packet_movedTo {p : Packet} {s t : State} (h : exec p.toInstr s = .next t) (hne : t.cube ≠ s.cube) :
    MovedTo s t.cube :=
  have ⟨_, he⟩ := packet_emits h
  movedTo_applyMoves he.cube hne

theorem apply_movedTo {f : BitVec 3} {m : BitVec 2} {s t : State} (h : exec (.apply f m) s = .next t)
    (hne : t.cube ≠ s.cube) : MovedTo s t.cube := by
  cases applyOperands f m with
  | badFace _ _ hf =>
    cases h.symm.trans (exec_apply_badFace hf m s)
    exact absurd rfl hne
  | badModifier face =>
    cases h.symm.trans (exec_apply_badModifier face s)
    exact absurd rfl hne
  | move face mod =>
    cases h.symm.trans (exec_apply_move face mod s)
    exact movedTo_applyMoves (ms := [(face, mod)]) rfl hne

/-- Settles O41: RESET solves the cube, RECON keeps or adopts it, NOP, SETGEN and ORIENT keep it, and the others change
it by moves. -/
theorem onlyMovesReconAndResetWriteTheCube : Obligations.OnlyMovesReconAndResetWriteTheCube := by
  intro i s t h hne
  by_cases hp : ∃ p : Packet, i = p.toInstr
  · obtain ⟨p, rfl⟩ := hp
    exact .inr (.inr ⟨.inr (.inr ⟨p, rfl⟩), packet_movedTo h hne⟩)
  cases i with
  | nop => cases h; exact absurd rfl hne
  | reset => cases h; exact .inl ⟨rfl, rfl⟩
  | setgen g => exact absurd (exec_setgen_cube h) hne
  | decode P =>
    obtain ⟨ms, he⟩ := decode_emits h
    exact .inr (.inr ⟨.inr (.inl ⟨P, rfl⟩), movedTo_applyMoves he.cube hne⟩)
  | apply f m => exact .inr (.inr ⟨.inl ⟨f, m, rfl⟩, apply_movedTo h hne⟩)
  | recon c => exact .inr (.inl ⟨c, rfl, (exec_recon_cube h).resolve_left hne⟩)
  | orient => cases h; exact absurd rfl hne
  | g4Move d o => exact absurd ⟨.g4Move d o, rfl⟩ hp
  | g4Orient raw v => exact absurd ⟨.g4Orient raw v, rfl⟩ hp
  | g4Unknown tag => exact absurd ⟨.g4Unknown tag, rfl⟩ hp
  | g3Dropped a b c => exact absurd ⟨.g3Dropped a b c, rfl⟩ hp
  | g3MoveA d o => exact absurd ⟨.g3MoveA d o, rfl⟩ hp
  | g3MoveB d o => exact absurd ⟨.g3MoveB d o, rfl⟩ hp
  | g3Unknown a b c => exact absurd ⟨.g3Unknown a b c, rfl⟩ hp
  | g2Snapshot c => exact absurd ⟨.g2Snapshot c, rfl⟩ hp
  | g2Batch c slots => exact absurd ⟨.g2Batch c slots, rfl⟩ hp
  | g2Orient raw v => exact absurd ⟨.g2Orient raw v, rfl⟩ hp
  | g2Unknown tag => exact absurd ⟨.g2Unknown tag, rfl⟩ hp

end Sys2Proof.Machine
end

section
/-! DECODE in common (spec/41_decode_common.md): its checks, the move packets of Gen3 and Gen4, the Unknown packets, and
what every decoder keeps. -/

namespace Sys2Proof.Machine

open Sys2Proof.Spec

/-! ### Unknown packets -/

/-- `EmitUnknown` writes the event and its tag into an otherwise empty result (R116). -/
theorem emitUnknown_eq (tag : Byte) (s : State) :
    emitUnknown tag s = { s with result := { Result.empty with kind := .unknown, tag := tag } } :=
  congrArg (fun r : Result => { s with result := { r with kind := .unknown, tag := tag } }) okResult_eq_empty

/-- Settles O27: each generation's Unknown packet ends in `EmitUnknown` of its tag, four bits of Gen2 zero-extended. -/
theorem unknownPacketsReportTheirTag : Obligations.UnknownPacketsReportTheirTag := by
  intro s tag magic b2 tag2
  have hextend : tag2.setWidth 8 = 0#4 ++ tag2 := by
    revert tag2
    decide
  rw [← hextend]
  exact ⟨congrArg Host.Outcome.next (emitUnknown_eq tag s), congrArg Host.Outcome.next (emitUnknown_eq tag s),
    congrArg Host.Outcome.next (emitUnknown_eq (tag2.setWidth 8) s)⟩

/-- Every generation's decoder reads twenty zero bytes as a packet that emits Unknown with tag 0; for Gen3 the frame is
valid by its byte 2 (R118). -/
theorem decodePacket_zeros (g : Generation) (hg : g ≠ .none) : ∃ p, decodePacket g (List.replicate 20 0) = some p ∧
    ∀ s, exec p.toInstr s = .next (emitUnknown 0 s) := by
  cases g with
  | none => exact absurd rfl hg
  | gen4 => exact ⟨.g4Unknown 0, by decide, fun _ => rfl⟩
  | gen3 => exact ⟨.g3Unknown 0 0 0, by decide, fun _ => rfl⟩
  | gen2 => exact ⟨.g2Unknown 0, by decide, fun _ => rfl⟩

/-- Settles O28: twenty bytes are accepted, and DECODE is the packet's instruction (`decodePacket_zeros`). -/
theorem allZeroPayloadIsUnknown : Obligations.AllZeroPayloadIsUnknown := by
  intro s hgen
  obtain ⟨p, hp, hunknown⟩ := decodePacket_zeros s.gen hgen
  rw [exec_decode_packet _ s p hp (by decide), hunknown, emitUnknown_eq]
  rfl

/-! ### The checks of DECODE -/

/-- Settles O23: a word of DECODE's row decodes to DECODE of its payload, and a set reserved bit is judged before the
operand block. Then come the three ways of DECODE, and the selected packet completes (`packet_effect`). -/
theorem decodeChecksThenRunsTheSelectedDecoder : Obligations.DecodeChecksThenRunsTheSelectedDecoder := by
  refine ⟨fun w P hrow hlen => ?_, fun s w b hopc hreserved => ?_, fun s P hgen => exec_decode_none P s hgen,
    fun s P hgen hlen => ?_, fun s P hgen hlen => ?_⟩
  · exact (recordLengthIsCheckedByTheEncoding .reset w P hrow).2 hlen
  · rw [step_present, decodeRecord_reserved w b 0x10#8 16 (by decide) hopc hreserved]
    rfl
  · exact exec_decode_length P s hgen (mt (mem_payloadLengths_iff _).mp hlen)
  · obtain ⟨p, hp, hpgen⟩ := decodePacket_some s.gen P hgen
    obtain ⟨t, ht, -⟩ := packet_effect p s
    exact ⟨p, t, hp, hpgen, (exec_decode_packet P s p hp ((mem_payloadLengths_iff _).mpr hlen)).trans ht, ht⟩

/-- Settles O29: DECODE completes like every instruction (`exec_effect`), and no effect breaks a valid cube
(`Effect.cube_valid`). -/
theorem decodeIsTotalAndKeepsTheCubeValid : Obligations.DecodeIsTotalAndKeepsTheCubeValid := by
  intro s P hvalid
  obtain ⟨t, ht, heffect⟩ := exec_effect (.decode P) s
  exact ⟨t, ht, heffect.cube_valid hvalid⟩

/-! ### One-hot move packets -/

/-- A one-hot field names the bit whose power of two it is (R113, R114). -/
theorem oneHotIndex_eq_some_iff (o : BitVec 6) (k : Fin 6) : oneHotIndex o = some k ↔ o.toNat = 2 ^ k.val := by
  revert o k
  decide

/-- A field that is no power of two below 64 names no bit: none is set, or more than one (R113). -/
theorem oneHotIndex_eq_none {o : BitVec 6} (h : ∀ k < 6, o.toNat ≠ 2 ^ k) : oneHotIndex o = none :=
  Option.eq_none_iff_forall_ne_some.mpr fun k hk => h k.val k.isLt ((oneHotIndex_eq_some_iff o k).mp hk)

/-- The code of a letter of "BRDFUL" (R114). -/
theorem faceCode_letterBRDFUL (k : Fin 6) : faceCode (letterBRDFUL k) = codeBRDFUL k := by
  revert k
  decide

/-- With DIR3_IS_CCW false, only direction 1 is counter-clockwise (R112, log 3). -/
theorem modifierCode_dirToMod (d : BitVec 2) :
    modifierCode (dirToMod Config.dir3IsCcw d) = if d = 1#2 then 1#2 else 0#2 := by
  revert d
  decide

theorem decodeOneHotMove_malformed (d : BitVec 2) {o : BitVec 6} (s : State) (h : oneHotIndex o = none) :
    decodeOneHotMove d o s = raised 0x11#32 s := by
  simp only [decodeOneHotMove, h]
  rfl

/-- The set bit names the face, the direction field the modifier, of the one move that is made and emitted (R111). -/
theorem decodeOneHotMove_move (d : BitVec 2) {o : BitVec 6} {k : Fin 6} (s : State) (h : oneHotIndex o = some k) :
    decodeOneHotMove d o s = { s with
      cube := applyMove Config.moveTables (remappedFace Config.faceRemap k) (dirToMod Config.dir3IsCcw d) s.cube
      result := { Result.empty with
        kind := .move
        n := 1
        mv := #v[moveCode (remappedFace Config.faceRemap k) (dirToMod Config.dir3IsCcw d), 0, 0, 0, 0, 0, 0] } } := by
  simp only [decodeOneHotMove, h, statusWord_ok]
  rfl

/-- Settles O30: the three packets are the shared body `DecodeOneHotMove`, which the index of the one set bit decides
(`oneHotIndex_eq_some_iff`). The codes of its face and modifier are APPLY's operands, and together the move code. -/
theorem oneHotMovePacketsEmitAndApplyOneMove : Obligations.OneHotMovePacketsEmitAndApplyOneMove := by
  intro d o s i hi
  have hexec : exec i s = .next (decodeOneHotMove d o s) := by
    simp only [List.mem_cons, List.not_mem_nil, or_false] at hi
    obtain rfl | rfl | rfl := hi <;> rfl
  refine ⟨fun hnone => ?_, fun k hk => ?_⟩
  · rw [hexec, decodeOneHotMove_malformed d s (oneHotIndex_eq_none hnone)]
  · have hmove := decodeOneHotMove_move d s ((oneHotIndex_eq_some_iff o k).mpr hk)
    dsimp only
    rw [← faceCode_letterBRDFUL, ← modifierCode_dirToMod]
    exact ⟨_, exec_apply_move _ _ s, rfl, hexec.trans (congrArg Host.Outcome.next hmove)⟩

/-! ### No half turns -/

/-- Each entry of `RES_MV` has modifier code 0 or 1, CW or CCW (R115). -/
def NoHalfTurn (r : Result) : Prop :=
  ∀ i (h : i < 7), (r.mv[i]).extractLsb' 3 2 = 0#2 ∨ (r.mv[i]).extractLsb' 3 2 = 1#2

/-- A result that names no move names no half turn. -/
theorem noHalfTurn_of_mv_empty {r : Result} (h : r.mv = Result.empty.mv) : NoHalfTurn r := by
  unfold NoHalfTurn
  rw [h]
  exact resultInv_empty.noHalf

/-- From every state, its cube valid or not, an effect leaves a result without half turns: only a one-hot move and a
seeded batch write `RES_MV`, and no value of their direction fields gives HALF (R115). -/
theorem Effect.noHalfTurn {s t : State} (h : Effect s t) : NoHalfTurn t.result := by
  cases h with
  | raised => exact noHalfTurn_of_mv_empty rfl
  | done => exact noHalfTurn_of_mv_empty rfl
  | reset => exact noHalfTurn_of_mv_empty rfl
  | select => exact noHalfTurn_of_mv_empty rfl
  | turned => exact noHalfTurn_of_mv_empty rfl
  | matched => exact noHalfTurn_of_mv_empty rfl
  | adopted => exact noHalfTurn_of_mv_empty rfl
  | sampled => exact noHalfTurn_of_mv_empty rfl
  | unknown => exact noHalfTurn_of_mv_empty rfl
  | moved d o k hk =>
    simp only [decodeOneHotMove, hk]
    exact (resultInv_move _ _ (dirToMod_ne_half _ d)).noHalf
  | facelets => exact noHalfTurn_of_mv_empty (by rw [snapshot_result])
  | batch c slots =>
    by_cases hp : pendingCount (counterDelta c s.trkLast) = 0
    · exact noHalfTurn_of_mv_empty (by rw [(seededBatch_none c slots s hp).1, raiseStatus_result])
    · obtain ⟨mv, hmv, hlen, he⟩ := seededBatch_new c slots s hp
      rw [he]
      exact (resultInv_batch _ _ mv ⟨_, _, rfl⟩ (movesRead_ne_half _) hlen hmv).noHalf

/-- Settles O31: no effect leaves a half turn in any entry of `RES_MV`, so none in the first `RES_N`. -/
theorem noDecoderEmitsAHalfTurn : Obligations.NoDecoderEmitsAHalfTurn :=
  fun _ _ _ h k hk _ => (effect_of_exec h).noHalfTurn k hk

/-! ### Who reads GEN -/

@[simp] theorem decodeOneHotMove_setGen (d : BitVec 2) (o : BitVec 6) (s : State) (g : Generation) :
    decodeOneHotMove d o { s with gen := g } = { decodeOneHotMove d o s with gen := g } := by
  unfold decodeOneHotMove
  split <;> rfl

@[simp] theorem snapshot_setGen (reseed : Bool) (c : Byte) (s : State) (g : Generation) :
    snapshot reseed c { s with gen := g } = { snapshot reseed c s with gen := g } := by
  unfold snapshot
  dsimp only
  split <;> rfl

@[simp] theorem seededBatch_setGen (c : Byte) (slots : Vector Slot 7) (s : State) (g : Generation) :
    seededBatch c slots { s with gen := g } = { seededBatch c slots s with gen := g } := by
  unfold seededBatch
  dsimp only
  split <;> rfl

/-- A packet's routine does not read GEN, which DECODE has judged (R119). -/
theorem packet_setGen {p : Packet} {s t : State} (g : Generation) (h : exec p.toInstr s = .next t) :
    exec p.toInstr { s with gen := g } = .next { t with gen := g } := by
  cases p with
  | g4Move d o => cases h; exact congrArg Host.Outcome.next (decodeOneHotMove_setGen d o s g)
  | g4Orient => cases h; rfl
  | g4Unknown => cases h; rfl
  | g3Dropped => cases h; rfl
  | g3MoveA d o => cases h; exact congrArg Host.Outcome.next (decodeOneHotMove_setGen d o s g)
  | g3MoveB d o => cases h; exact congrArg Host.Outcome.next (decodeOneHotMove_setGen d o s g)
  | g3Unknown => cases h; rfl
  | g2Snapshot c => cases h; exact congrArg Host.Outcome.next (snapshot_setGen _ c s g)
  | g2Batch c slots =>
    replace h : execG2Batch c slots s = .next t := h
    show execG2Batch c slots _ = _
    unfold execG2Batch at h ⊢
    split at h
    · next hs => cases h; exact if_pos hs
    · next hs => cases h; rw [if_neg hs, seededBatch_setGen]
  | g2Orient => cases h; rfl
  | g2Unknown => cases h; rfl

/-- APPLY does not read GEN (40_cube_state.md R101). -/
theorem apply_setGen {f : BitVec 3} {m : BitVec 2} {s t : State} (g : Generation)
    (h : exec (.apply f m) s = .next t) : exec (.apply f m) { s with gen := g } = .next { t with gen := g } := by
  cases applyOperands f m with
  | badFace _ _ hf => cases h.symm.trans (exec_apply_badFace hf m s); exact exec_apply_badFace hf m _
  | badModifier face => cases h.symm.trans (exec_apply_badModifier face s); exact exec_apply_badModifier face _
  | move face mod => cases h.symm.trans (exec_apply_move face mod s); exact exec_apply_move face mod _

/-- RECON does not read GEN (46_reconciliation.md R170). -/
theorem recon_setGen {c : CubeState} {s t : State} (g : Generation) (h : exec (.recon c) s = .next t) :
    exec (.recon c) { s with gen := g } = .next { t with gen := g } := by
  replace h : execRecon c s = .next t := h
  show execRecon c _ = _
  unfold execRecon at h ⊢
  split at h
  · next hinvalid => cases h; exact if_pos hinvalid
  · next hvalid =>
    rw [if_neg hvalid]
    split at h
    · next hsame => cases h; exact if_pos hsame
    · next hdiffers => cases h; exact if_neg hdiffers

/-- Settles O16: NOP and ORIENT test no register, APPLY and RECON only their operands and the cube, and a packet's
routine no GEN. -/
theorem otherCommandsDoNotReadGen : Obligations.OtherCommandsDoNotReadGen := by
  intro i s t g hdecode hsetgen hreset h
  cases i with
  | nop => cases h; rfl
  | reset => exact absurd rfl hreset
  | setgen x => exact absurd rfl (hsetgen x)
  | decode P => exact absurd rfl (hdecode P)
  | apply f m => exact apply_setGen g h
  | recon c => exact recon_setGen g h
  | orient => cases h; rfl
  | g4Move d o => exact packet_setGen (p := .g4Move d o) g h
  | g4Orient raw v => exact packet_setGen (p := .g4Orient raw v) g h
  | g4Unknown tag => exact packet_setGen (p := .g4Unknown tag) g h
  | g3Dropped a b c => exact packet_setGen (p := .g3Dropped a b c) g h
  | g3MoveA d o => exact packet_setGen (p := .g3MoveA d o) g h
  | g3MoveB d o => exact packet_setGen (p := .g3MoveB d o) g h
  | g3Unknown a b c => exact packet_setGen (p := .g3Unknown a b c) g h
  | g2Snapshot c => exact packet_setGen (p := .g2Snapshot c) g h
  | g2Batch c slots => exact packet_setGen (p := .g2Batch c slots) g h
  | g2Orient raw v => exact packet_setGen (p := .g2Orient raw v) g h
  | g2Unknown tag => exact packet_setGen (p := .g2Unknown tag) g h

end Sys2Proof.Machine
end

section
/-! DECODE with GEN = 4 (spec/42_decode_gen4.md): the packet kinds by the bytes of the payload (spec/30_encoding.md R81). -/

namespace Sys2Proof.Machine

open Sys2Proof.Spec

/-! ### Quaternions and velocities at a byte boundary -/

/-- Sixteen bits from a byte boundary are two bytes, the first most significant. -/
theorem field_two_bytes (P : List Byte) (k : Nat) : field P (8 * k) 16 = P.getD k 0 ++ P.getD (k + 1) 0 := by
  rw [← field_byte, ← field_byte]
  exact field_append P (8 * k) 8 8

/-- A quaternion from a byte boundary is eight bytes, two for each component. -/
theorem quatField_bytes (P : List Byte) (k : Nat) : quatField P (8 * k) =
    { w := P.getD k 0 ++ P.getD (k + 1) 0, x := P.getD (k + 2) 0 ++ P.getD (k + 3) 0,
      y := P.getD (k + 4) 0 ++ P.getD (k + 5) 0, z := P.getD (k + 6) 0 ++ P.getD (k + 7) 0 } := by
  simp only [← field_two_bytes]
  rfl

/-- Velocities from a byte boundary are three nibbles, the high one of each byte first. -/
theorem velField_nibbles (P : List Byte) (k : Nat) : velField P (8 * k) =
    #v[(P.getD k 0).extractLsb' 4 4, (P.getD k 0).extractLsb' 0 4, (P.getD (k + 1) 0).extractLsb' 4 4] := by
  rw [← field_part P k 4 4 (by decide), ← field_part P k 0 4 (by decide), ← field_part P (k + 1) 4 4 (by decide)]
  rfl

/-! ### The packet by its tag -/

/-- The Gen4 decoder in bytes: byte 0 is the tag, and each component is two whole bytes or a part of one (R120). -/
theorem decodeGen4_bytes (P : List Byte) : decodeGen4 P =
    if P.getD 0 0 = 0x01#8 then
      .g4Move ((P.getD 8 0).extractLsb' 6 2) ((P.getD 8 0).extractLsb' 0 6)
    else if P.getD 0 0 = 0xEC#8 then
      .g4Orient
        { w := P.getD 2 0 ++ P.getD 3 0, x := P.getD 4 0 ++ P.getD 5 0,
          y := P.getD 6 0 ++ P.getD 7 0, z := P.getD 8 0 ++ P.getD 9 0 }
        #v[(P.getD 10 0).extractLsb' 4 4, (P.getD 10 0).extractLsb' 0 4, (P.getD 11 0).extractLsb' 4 4]
    else .g4Unknown (P.getD 0 0) := by
  have htag : field P 0 8 = P.getD 0 0 := field_byte P 0
  have hdir : field P 64 2 = (P.getD 8 0).extractLsb' 6 2 := field_part P 8 6 2 (by decide)
  have honehot : field P 66 6 = (P.getD 8 0).extractLsb' 0 6 := field_part P 8 0 6 (by decide)
  rw [decodeGen4, htag, hdir, honehot, quatField_bytes P 2, velField_nibbles P 10]

/-- Settles O24: DECODE is the instruction of the packet the Gen4 decoder reads (`exec_decode_packet`), which the tag
selects among three in bytes (`decodeGen4_bytes`). -/
theorem gen4PayloadIsReadByItsTag : Obligations.Gen4PayloadIsReadByItsTag := by
  intro s P hgen hlen
  have hpacket : decodePacket s.gen P = some (decodeGen4 P) := by rw [hgen]; rfl
  rw [exec_decode_packet P s _ hpacket ((mem_payloadLengths_iff _).mpr hlen), decodeGen4_bytes]
  split
  · rfl
  · split <;> rfl

end Sys2Proof.Machine
end

section
/-! DECODE with GEN = 3 (spec/43_decode_gen3.md): the frame check and the packet kinds by the bytes of the payload
(spec/30_encoding.md R81). -/

namespace Sys2Proof.Machine

open Sys2Proof.Spec

/-- The Gen3 decoder in bytes: bytes 0 and 2 are the frame check, byte 1 the tag, byte 9 the move (R130). -/
theorem decodeGen3_bytes (P : List Byte) : decodeGen3 P =
    if P.getD 0 0 ≠ 0x55#8 ∧ P.getD 2 0 ≠ 0x00#8 then .g3Dropped (P.getD 0 0) (P.getD 1 0) (P.getD 2 0)
    else if P.getD 1 0 = 0x01#8 then
      if P.getD 0 0 = 0x55#8 then .g3MoveA ((P.getD 9 0).extractLsb' 6 2) ((P.getD 9 0).extractLsb' 0 6)
      else .g3MoveB ((P.getD 9 0).extractLsb' 6 2) ((P.getD 9 0).extractLsb' 0 6)
    else .g3Unknown (P.getD 0 0) (P.getD 1 0) (P.getD 2 0) := by
  have hmagic : field P 0 8 = P.getD 0 0 := field_byte P 0
  have htag : field P 8 8 = P.getD 1 0 := field_byte P 1
  have hb2 : field P 16 8 = P.getD 2 0 := field_byte P 2
  have hdir : field P 72 2 = (P.getD 9 0).extractLsb' 6 2 := field_part P 9 6 2 (by decide)
  have honehot : field P 74 6 = (P.getD 9 0).extractLsb' 0 6 := field_part P 9 0 6 (by decide)
  simp only [decodeGen3, hmagic, htag, hb2, hdir, honehot, not_or, ne_eq]

/-- A dropped frame raises DROPPED_FRAME, code 0x12, and changes nothing else (R130). -/
theorem exec_g3Dropped (magic tag b2 : Byte) (s : State) :
    exec (.g3Dropped magic tag b2) s = .next (raised 0x12#32 s) := rfl

/-- Settles O25: DECODE is the instruction of the packet the Gen3 decoder reads (`exec_decode_packet`), which the frame
check and the tag select among four in bytes (`decodeGen3_bytes`); the dropped one is `exec_g3Dropped`. -/
theorem gen3FrameIsCheckedThenReadByItsTag : Obligations.Gen3FrameIsCheckedThenReadByItsTag := by
  refine ⟨fun s P hgen hlen => ?_, exec_g3Dropped⟩
  have hpacket : decodePacket s.gen P = some (decodeGen3 P) := by rw [hgen]; rfl
  rw [exec_decode_packet P s _ hpacket ((mem_payloadLengths_iff _).mpr hlen), decodeGen3_bytes]
  split
  · exact exec_g3Dropped _ _ _ s
  · split
    · split <;> rfl
    · rfl

end Sys2Proof.Machine
end

section
/-! DECODE with GEN = 2 (spec/44_decode_gen2.md): the packet kinds by the bytes of the payload (spec/30_encoding.md R81,
R82), the snapshot, the move batch and the move-counter tracker. -/

namespace Sys2Proof.Machine

open Sys2Proof.Spec

/-! ### Fields across a byte boundary -/

/-- A field across one byte boundary: the last `a` bits of a byte, then the first `b` of the next. -/
theorem field_across (P : List Byte) (k a b : Nat) (ha : a ≤ 8) (hb : b ≤ 8) : field P (8 * k + (8 - a)) (a + b) =
    (P.getD k 0).extractLsb' 0 a ++ (P.getD (k + 1) 0).extractLsb' (8 - b) b := by
  have hnext : 8 * k + (8 - a) + a = 8 * (k + 1) + (8 - (8 - b) - b) := by omega
  rw [field_append, hnext, field_part P (k + 1) (8 - b) b (by omega), ← field_part P k 0 a (by omega)]

/-- Sixteen bits from the middle of a byte: its low nibble, a whole byte and a high nibble. -/
theorem field_mid_bytes (P : List Byte) (k : Nat) : field P (8 * k + 4) 16 =
    (P.getD k 0).extractLsb' 0 4 ++ P.getD (k + 1) 0 ++ (P.getD (k + 2) 0).extractLsb' 4 4 := by
  rw [← field_part P k 0 4 (by decide), ← field_byte P (k + 1), ← field_part P (k + 2) 4 4 (by decide)]
  exact (field_append P (8 * k + 4) 12 4).trans (congrArg (· ++ _) (field_append P (8 * k + 4) 4 8))

/-- A quaternion from the middle of a byte. -/
theorem quatField_mid_bytes (P : List Byte) (k : Nat) : quatField P (8 * k + 4) =
    { w := (P.getD k 0).extractLsb' 0 4 ++ P.getD (k + 1) 0 ++ (P.getD (k + 2) 0).extractLsb' 4 4,
      x := (P.getD (k + 2) 0).extractLsb' 0 4 ++ P.getD (k + 3) 0 ++ (P.getD (k + 4) 0).extractLsb' 4 4,
      y := (P.getD (k + 4) 0).extractLsb' 0 4 ++ P.getD (k + 5) 0 ++ (P.getD (k + 6) 0).extractLsb' 4 4,
      z := (P.getD (k + 6) 0).extractLsb' 0 4 ++ P.getD (k + 7) 0 ++ (P.getD (k + 8) 0).extractLsb' 4 4 } := by
  simp only [← field_mid_bytes]
  rfl

/-- Velocities from the middle of a byte: its low nibble, then both nibbles of the next. -/
theorem velField_mid_nibbles (P : List Byte) (k : Nat) : velField P (8 * k + 4) =
    #v[(P.getD k 0).extractLsb' 0 4, (P.getD (k + 1) 0).extractLsb' 4 4, (P.getD (k + 1) 0).extractLsb' 0 4] := by
  rw [← field_part P k 0 4 (by decide), ← field_part P (k + 1) 4 4 (by decide), ← field_part P (k + 1) 0 4 (by decide)]
  rfl

/-- The seven slots in bytes (30_encoding.md R82): the faces of slots 2 and 5 lie across a byte boundary. -/
theorem slotFields_bytes (P : List Byte) : Vector.ofFn (fun i : Fin 7 => slotField P i.val) =
    #v[{ face := (P.getD 1 0).extractLsb' 0 4, dir := (P.getD 2 0).extractLsb' 7 1 },
       { face := (P.getD 2 0).extractLsb' 3 4, dir := (P.getD 2 0).extractLsb' 2 1 },
       { face := (P.getD 2 0).extractLsb' 0 2 ++ (P.getD 3 0).extractLsb' 6 2, dir := (P.getD 3 0).extractLsb' 5 1 },
       { face := (P.getD 3 0).extractLsb' 1 4, dir := (P.getD 3 0).extractLsb' 0 1 },
       { face := (P.getD 4 0).extractLsb' 4 4, dir := (P.getD 4 0).extractLsb' 3 1 },
       { face := (P.getD 4 0).extractLsb' 0 3 ++ (P.getD 5 0).extractLsb' 7 1, dir := (P.getD 5 0).extractLsb' 6 1 },
       { face := (P.getD 5 0).extractLsb' 2 4, dir := (P.getD 5 0).extractLsb' 1 1 }] := by
  have h2 := field_across P 2 2 2 (by decide) (by decide)
  have h5 := field_across P 4 3 1 (by decide) (by decide)
  rw [← h2, ← h5]
  simp (disch := decide) only [← field_part]
  rfl

/-! ### The packet by its tag -/

/-- The Gen2 decoder in bytes: the high nibble of byte 0 is the tag (R140). -/
theorem decodeGen2_bytes (P : List Byte) : decodeGen2 P =
    if (P.getD 0 0).extractLsb' 4 4 = 0x4#4 then
      .g2Snapshot ((P.getD 0 0).extractLsb' 0 4 ++ (P.getD 1 0).extractLsb' 4 4)
    else if (P.getD 0 0).extractLsb' 4 4 = 0x2#4 then
      .g2Batch ((P.getD 0 0).extractLsb' 0 4 ++ (P.getD 1 0).extractLsb' 4 4)
        (Vector.ofFn fun i : Fin 7 => slotField P i.val)
    else if (P.getD 0 0).extractLsb' 4 4 = 0x1#4 then .g2Orient (quatField P 4) (velField P 68)
    else .g2Unknown ((P.getD 0 0).extractLsb' 4 4) := by
  have htag : field P 0 4 = (P.getD 0 0).extractLsb' 4 4 := field_part P 0 4 4 (by decide)
  have hcounter : field P 4 8 = (P.getD 0 0).extractLsb' 0 4 ++ (P.getD 1 0).extractLsb' 4 4 :=
    field_across P 0 4 4 (by decide) (by decide)
  rw [decodeGen2, htag, hcounter]

/-- Settles O26: DECODE is the instruction of the packet the Gen2 decoder reads (`exec_decode_packet`), which the tag
selects among four (`decodeGen2_bytes`); slots, components and velocities are parts of bytes. -/
theorem gen2PayloadIsReadByItsTag : Obligations.Gen2PayloadIsReadByItsTag := by
  intro s P hgen hlen
  have hpacket : decodePacket s.gen P = some (decodeGen2 P) := by rw [hgen]; rfl
  rw [exec_decode_packet P s _ hpacket ((mem_payloadLengths_iff _).mpr hlen), decodeGen2_bytes, slotFields_bytes,
    quatField_mid_bytes P 0, velField_mid_nibbles P 8]
  dsimp only
  split
  · rfl
  · split
    · rfl
    · split <;> rfl

/-! ### The snapshot -/

/-- With RESEED_ON_SNAPSHOT false a snapshot seeds an Unseeded tracker (R142, log 3). -/
theorem exec_g2Snapshot_unseeded (c : Byte) {s : State} (h : s.trkSeeded = false) : exec (.g2Snapshot c) s =
    .next { s with trkSeeded := true, trkLast := c, result := { Result.empty with kind := .facelets } } := by
  simp only [exec, execG2Snapshot, snapshot, h, true_or, if_true, statusWord_ok]
  rfl

/-- With RESEED_ON_SNAPSHOT false a snapshot leaves a Seeded tracker (R142, log 3). -/
theorem exec_g2Snapshot_seeded (c : Byte) {s : State} (h : s.trkSeeded = true) : exec (.g2Snapshot c) s =
    .next { s with result := { Result.empty with kind := .facelets } } := by
  have hkeep : ¬(s.trkSeeded = false ∨ Config.reseedOnSnapshot = true) := by simp [h, Config.reseedOnSnapshot]
  simp only [exec, execG2Snapshot, snapshot, hkeep, if_false, statusWord_ok]
  rfl

/-- Settles O34: the test of `snapshot` is the tracker's, since RESEED_ON_SNAPSHOT is false. -/
theorem snapshotSeedsOnlyTheUnseededTracker : Obligations.SnapshotSeedsOnlyTheUnseededTracker :=
  fun c _ => ⟨exec_g2Snapshot_unseeded c, exec_g2Snapshot_seeded c⟩

/-! ### The move batch -/

theorem exec_g2Batch_unseeded (c : Byte) (slots : Vector Slot 7) {s : State} (h : s.trkSeeded = false) :
    exec (.g2Batch c slots) s = .next (raised 0x02#32 s) :=
  if_pos h

theorem exec_g2Batch_seeded (c : Byte) (slots : Vector Slot 7) {s : State} (h : s.trkSeeded = true) :
    exec (.g2Batch c slots) s = .next (seededBatch c slots s) :=
  if_neg (by simp [h])

/-- The slots of R145 are those the loop reads, in its order. -/
theorem slotsRead_eq_readOrder (slots : Vector Slot 7) {pending : Nat} (h : pending ≤ 7) :
    slotsRead slots pending = readOrder slots pending := by
  have hrange : (List.range 7).filter (fun i => decide (i < pending)) = List.range pending := by
    interval_cases pending <;> rfl
  rw [slotsRead, readOrder, List.filter_reverse, hrange, List.map_reverse]
  congr 1
  apply List.ext_getElem
  · simp [h]
  · intro i hi hi'
    have : i < 7 := by simp at hi; omega
    simp [this]

/-- The slots skipped are at most the seven of a batch. -/
theorem readOrder_skipped_le (slots : Vector Slot 7) (pending : Nat) :
    (readOrder slots pending).length - (movesRead (readOrder slots pending)).length ≤ 7 :=
  (Nat.sub_le ..).trans ((readOrder_length slots pending).trans_le (Nat.min_le_right ..))

/-- A slot's move has its code; a corrupted slot has neither (R145, R146). -/
theorem slotMove_map_moveCode (slot : Slot) : (slotMove slot).map (fun m => moveCode m.1 m.2) =
    if slot.face.toNat ≤ 5 then some (slotCode slot) else none := by
  obtain ⟨face, dir⟩ := slot
  revert face dir
  decide

/-- The codes of the uncorrupted slots are those of the moves read. -/
theorem slotsGood_map_slotCode (read : List Slot) :
    (slotsGood read).map slotCode = (movesRead read).map fun m => moveCode m.1 m.2 := by
  rw [slotsGood, movesRead, List.map_filterMap, funext slotMove_map_moveCode]
  induction read with
  | nil => rfl
  | cons slot read ih => by_cases h : slot.face.toNat ≤ 5 <;> simp [h, ih]

/-- The APPLYs of emitted codes complete, with the cube of the moves. -/
theorem execAll_moveCodes (ms : List (Face × Modifier)) (s : State) :
    ∃ u, execAll ((ms.map fun m => moveCode m.1 m.2).map applyOfCode) s = .next u ∧
      u.cube = applyMoves Config.moveTables ms s.cube := by
  rw [map_applyOfCode_moveCode]
  cases ms with
  | nil => exact ⟨s, rfl, rfl⟩
  | cons m ms => exact ⟨_, execAll_applyOfMove m ms s, rfl⟩

/-- The status word of a batch: SKIP from bit 8, DELTA from bit 16, CODE 0 (10_state.md R28). -/
theorem statusWord_batch {skip : Nat} (h : skip ≤ 7) (delta : BitVec 8) :
    statusWord .ok (BitVec.ofNat 3 skip) delta = BitVec.ofNat 32 (256 * skip + 65536 * delta.toNat) := by
  have := delta.isLt
  apply BitVec.eq_of_toNat_eq
  rw [statusWord_toNat, code_ok, BitVec.toNat_ofNat, BitVec.toNat_ofNat, BitVec.toNat_ofNat]
  omega

/-- Settles O35: an Unseeded tracker raises UNSEEDED; with difference 0 a seeded batch is `seededBatch_none`, otherwise
`seededBatch_new`, whose moves are those of the slots R145 reads. -/
theorem moveBatchDecodesThePendingSlots : Obligations.MoveBatchDecodesThePendingSlots := by
  intro c slots s
  dsimp only
  rw [← counterDelta_toNat]
  have hpending : min (counterDelta c s.trkLast).toNat 7 = pendingCount (counterDelta c s.trkLast) := rfl
  rw [hpending, slotsRead_eq_readOrder slots (pendingCount_le _), slotsGood_map_slotCode]
  refine ⟨exec_g2Batch_unseeded c slots, fun hseeded hzero => ?_, fun hseeded hne => ?_⟩
  · have hnone : pendingCount (counterDelta c s.trkLast) = 0 := by rw [← hpending, hzero]; rfl
    rw [exec_g2Batch_seeded c slots hseeded, (seededBatch_none c slots s hnone).1]
    rfl
  · have hnew : pendingCount (counterDelta c s.trkLast) ≠ 0 := by omega
    obtain ⟨mv, hmv, -, hbatch⟩ := seededBatch_new c slots s hnew
    obtain ⟨u, hu, hcube⟩ := execAll_moveCodes (movesRead (readOrder slots (pendingCount (counterDelta c s.trkLast)))) s
    rw [List.length_map]
    refine ⟨u, mv, hu, hmv, ?_⟩
    rw [exec_g2Batch_seeded c slots hseeded, hbatch, statusWord_batch (readOrder_skipped_le _ _), hcube]

/-! ### The tracker -/

theorem tracker_of_seeded {s : State} (h : s.trkSeeded = true) : tracker s = some s.trkLast := if_pos h

theorem tracker_of_unseeded {s : State} (h : s.trkSeeded = false) : tracker s = none := if_neg (by simp [h])

/-- The tracker is what its two registers make it (10_state.md R22). -/
theorem tracker_congr {s t : State} (hseeded : t.trkSeeded = s.trkSeeded) (hlast : t.trkLast = s.trkLast) :
    tracker t = tracker s := by
  rw [tracker, tracker, hseeded, hlast]

theorem tracker_decodeOneHotMove (d : BitVec 2) (o : BitVec 6) (s : State) :
    tracker (decodeOneHotMove d o s) = tracker s :=
  tracker_congr (decodeOneHotMove_trkSeeded d o s) (decodeOneHotMove_trkLast d o s)

/-- A snapshot seeds the tracker only from Unseeded (R141, R142). -/
theorem g2Snapshot_tracker {c : Byte} {s t : State} (h : exec (.g2Snapshot c) s = .next t) :
    tracker t = trackerAfter (.g2Snapshot c) (tracker s) := by
  cases hs : s.trkSeeded with
  | false =>
    cases h.symm.trans (exec_g2Snapshot_unseeded c hs)
    rw [tracker_of_unseeded hs]
    rfl
  | true =>
    cases h.symm.trans (exec_g2Snapshot_seeded c hs)
    rw [tracker_of_seeded hs]
    exact tracker_of_seeded hs

/-- A batch moves only a Seeded tracker (R141, R143, R148). -/
theorem g2Batch_tracker {c : Byte} {slots : Vector Slot 7} {s t : State} (h : exec (.g2Batch c slots) s = .next t) :
    tracker t = trackerAfter (.g2Batch c slots) (tracker s) := by
  cases hs : s.trkSeeded with
  | false =>
    cases h.symm.trans (exec_g2Batch_unseeded c slots hs)
    rw [tracker_of_unseeded hs]
    exact tracker_of_unseeded hs
  | true =>
    cases h.symm.trans (exec_g2Batch_seeded c slots hs)
    rw [tracker_of_seeded hs, tracker_of_seeded ((seededBatch_trkSeeded c slots s).trans hs), seededBatch_trkLast]
    rfl

theorem exec_setgen_tracker {g : BitVec 3} {s t : State} (h : exec (.setgen g) s = .next t) : tracker t = tracker s := by
  replace h : execSetgen g s = .next t := h
  unfold execSetgen at h
  split at h
  · cases h; rfl
  · split at h <;> cases h <;> rfl

theorem exec_apply_tracker {f : BitVec 3} {m : BitVec 2} {s t : State} (h : exec (.apply f m) s = .next t) :
    tracker t = tracker s := by
  cases applyOperands f m with
  | badFace _ _ hf => cases h.symm.trans (exec_apply_badFace hf m s); rfl
  | badModifier face => cases h.symm.trans (exec_apply_badModifier face s); rfl
  | move face mod => cases h.symm.trans (exec_apply_move face mod s); rfl

theorem exec_recon_tracker {c : CubeState} {s t : State} (h : exec (.recon c) s = .next t) : tracker t = tracker s := by
  replace h : execRecon c s = .next t := h
  unfold execRecon at h
  split at h
  · cases h; rfl
  · split at h <;> cases h <;> rfl

/-- The table of R141 for every instruction but DECODE. -/
theorem exec_tracker {i : Instr} {s t : State} (hdecode : ∀ P, i ≠ .decode P) (h : exec i s = .next t) :
    tracker t = trackerAfter i (tracker s) := by
  cases i with
  | nop => cases h; rfl
  | reset => cases h; rfl
  | setgen => exact exec_setgen_tracker h
  | decode P => exact absurd rfl (hdecode P)
  | apply => exact exec_apply_tracker h
  | recon => exact exec_recon_tracker h
  | orient => cases h; rfl
  | g4Move d o => cases h; exact tracker_decodeOneHotMove d o s
  | g4Orient => cases h; rfl
  | g4Unknown => cases h; rfl
  | g3Dropped => cases h; rfl
  | g3MoveA d o => cases h; exact tracker_decodeOneHotMove d o s
  | g3MoveB d o => cases h; exact tracker_decodeOneHotMove d o s
  | g3Unknown => cases h; rfl
  | g2Snapshot => exact g2Snapshot_tracker h
  | g2Batch => exact g2Batch_tracker h
  | g2Orient => cases h; rfl
  | g2Unknown => cases h; rfl

/-- Settles O33: DECODE raises a status, which leaves the tracker, or is its packet's instruction
(`exec_decode_packet`), which follows the table like every other (`exec_tracker`). -/
theorem trackerFollowsItsTransitionTable : Obligations.TrackerFollowsItsTransitionTable := by
  refine ⟨fun i s t => exec_tracker, fun P s t h hlen => ?_, fun P s t h hgen => ?_, fun P s t p h hlen hp => ?_⟩
  · obtain ⟨-, he⟩ | ⟨-, -, he⟩ | ⟨haccepted, -⟩ := exec_decode_cases P s
    · cases h.symm.trans he
      rfl
    · cases h.symm.trans he
      rfl
    · exact absurd ((mem_payloadLengths_iff _).mp haccepted) hlen
  · cases h.symm.trans (exec_decode_none P s hgen)
    rfl
  · exact exec_tracker (toInstr_ne_decode p)
      ((exec_decode_packet P s p hp ((mem_payloadLengths_iff _).mpr hlen)).symm.trans h)

end Sys2Proof.Machine
end

section
/-! The orientation engine (spec/45_orientation.md): what a sample computes, the bound of the relative numerators, and the
encoding of ORIENT. -/

namespace Sys2Proof.Machine

open Sys2Proof.Spec

/-! ### The numbers of a sample -/

/-- The model's sign-magnitude reading, by bit 15 and the 15 bits below, is that of the raw code as a number (R160). -/
theorem sm16_eq_signMagnitude (raw : BitVec 16) : sm16 raw = signMagnitude raw := by
  have hraw := raw.isLt
  have hmagnitude : (raw.extractLsb' 0 15).toNat = raw.toNat % 32768 := by simp [BitVec.extractLsb'_toNat]
  have hsign : raw.getLsbD 15 = decide (32768 ≤ raw.toNat) := BitVec.msb_eq_decide raw
  simp only [sm16, signMagnitude, hmagnitude, hsign, decide_eq_true_eq]
  split <;> split <;> omega

/-- The four sums of R163, the Hamilton product of R162 multiplied out over the conjugate. -/
theorem relQ_eq (c q : Quat Int) : relQ c q =
    { w := c.w * q.w + c.x * q.x + c.y * q.y + c.z * q.z
      x := -c.w * q.x + c.x * q.w - c.y * q.z + c.z * q.y
      y := -c.w * q.y + c.x * q.z + c.y * q.w - c.z * q.x
      z := -c.w * q.z - c.x * q.y + c.y * q.x + c.z * q.w } := by
  simp only [relQ, hamilton, conjugate, Quat.mk.injEq]
  refine ⟨?_, ?_, ?_, ?_⟩ <;> ring

/-- A sample relative to itself is no rotation, with its squared length (R165). -/
theorem relQ_self (c : Quat Int) : relQ c c = { w := c.w ^ 2 + c.x ^ 2 + c.y ^ 2 + c.z ^ 2, x := 0, y := 0, z := 0 } := by
  simp only [relQ_eq, Quat.mk.injEq]
  refine ⟨?_, ?_, ?_, ?_⟩ <;> ring

/-- The relative numerators a sample leaves are exactly those over the old QCUR, with no overflow in any state
(R161, R163). -/
theorem orientUpdate_qrel_toInt (raw : Quat16) (v : Velocity) (s : State) :
    (orientUpdate raw v s).result.qrel.map BitVec.toInt = relQ (raw.map sm16) (numerators s.qcur) := by
  obtain ⟨hw, hx, hy, hz⟩ := relQ_fits raw s.qcur
  simp only [orientUpdate, Quat.map] at hw hx hy hz ⊢
  rw [hw, hx, hy, hz]

/-- The new QCUR holds the sign-magnitude numerators (R160, R161). -/
theorem numerators_orientUpdate_qcur (raw : Quat16) (v : Velocity) (s : State) :
    numerators (orientUpdate raw v s).qcur = raw.map signMagnitude := by
  rw [orientUpdate_qcur, numerators_sample]
  simp only [Quat.map, sm16_eq_signMagnitude]

/-- The result of a sample shows the new QCUR as its absolute numerators, and its status is OK, which is 0 (R161). -/
theorem orientUpdate_eq (raw : Quat16) (v : Velocity) (s : State) :
    orientUpdate raw v s = { s with
      qprev := s.qcur
      qcur := (orientUpdate raw v s).qcur
      result := { Result.empty with
        kind := .orient, qraw := raw, qabs := (orientUpdate raw v s).qcur, qrel := (orientUpdate raw v s).result.qrel
        vel := v } } := by
  simp only [orientUpdate, statusWord_ok]
  rfl

/-! ### Samples -/

/-- Settles O44: ORIENT and the two packets are the orientation update (`Samples.exec_eq`), whose relative numerators are
the four sums (`relQ_eq`) of the new numerators over the old. -/
theorem orientationSampleIsExact : Obligations.OrientationSampleIsExact := by
  intro raw v s iv hiv
  have hsample : Samples iv.1 raw iv.2 := by
    simp only [List.mem_cons, List.not_mem_nil, or_false] at hiv
    obtain rfl | rfl | rfl := hiv
    · exact .orient raw
    · exact .g4Orient raw v
    · exact .g2Orient raw v
  have hqcur := numerators_orientUpdate_qcur raw iv.2 s
  have hqrel := orientUpdate_qrel_toInt raw iv.2 s
  rw [relQ_eq, ← numerators_sample raw, ← orientUpdate_qcur raw iv.2 s] at hqrel
  simp only [Quat.map, Quat.mk.injEq] at hqrel
  exact ⟨_, hsample.exec_eq s, orientUpdate_eq raw iv.2 s, hqcur, hqrel⟩

/-- Settles O47: the first ORIENT leaves the sample's numerators in QCUR, so the second is relative to itself
(`relQ_self`). -/
theorem equalSamplesGiveNoRotation : Obligations.EqualSamplesGiveNoRotation := by
  intro raw s
  refine ⟨orientUpdate raw #v[0, 0, 0] (orientUpdate raw #v[0, 0, 0] s), rfl, ?_⟩
  have hqrel := orientUpdate_qrel_toInt raw #v[0, 0, 0] (orientUpdate raw #v[0, 0, 0] s)
  rw [orientUpdate_qcur, numerators_sample, relQ_self] at hqrel
  simpa only [Quat.map, Quat.mk.injEq, sm16_eq_signMagnitude] using hqrel

/-! ### The bound of the relative numerators -/

/-- An effect other than a sample leaves the relative numerators 0 (10_state.md R26, R27). -/
theorem Effect.qrel_empty_or_sampled {s t : State} (h : Effect s t) :
    t.result.qrel = Result.empty.qrel ∨ ∃ raw v, t = orientUpdate raw v s := by
  cases h with
  | raised => exact .inl rfl
  | done => exact .inl rfl
  | reset => exact .inl rfl
  | select => exact .inl rfl
  | turned => exact .inl rfl
  | matched => exact .inl rfl
  | adopted => exact .inl rfl
  | sampled raw v => exact .inr ⟨raw, v, rfl⟩
  | unknown => exact .inl rfl
  | moved d o k hk => exact .inl (by simp only [decodeOneHotMove, hk])
  | facelets => exact .inl (by rw [snapshot_result])
  | batch c slots =>
    left
    by_cases hp : pendingCount (counterDelta c s.trkLast) = 0
    · rw [(seededBatch_none c slots s hp).1, raiseStatus_result]
    · obtain ⟨mv, -, -, he⟩ := seededBatch_new c slots s hp
      rw [he]

/-- From numerators in range, those a sample leaves are at most `4 * 32767 ^ 2` in size (R164). -/
theorem orientUpdate_qrel_bound (raw : Quat16) (v : Velocity) {s : State} (hq : quatInRange s.qcur) :
    let r := (orientUpdate raw v s).result.qrel
    |r.w.toInt| ≤ 4294705156 ∧ |r.x.toInt| ≤ 4294705156 ∧ |r.y.toInt| ≤ 4294705156 ∧ |r.z.toInt| ≤ 4294705156 := by
  obtain ⟨hw, hx, hy, hz⟩ := hq
  have hbound := relQ_bound (raw.map sm16) (numerators s.qcur) 32767 32767
    ⟨abs_sm16 _, abs_sm16 _, abs_sm16 _, abs_sm16 _⟩
    ⟨abs_le.mpr hw, abs_le.mpr hx, abs_le.mpr hy, abs_le.mpr hz⟩
  rw [← orientUpdate_qrel_toInt raw v s] at hbound
  exact hbound

/-- With all eight numerators 32767 the sample's first sum is four squares, the bound itself (R164). -/
theorem Samples.qrel_reaches_bound {i : Instr} {v : Velocity} (h : Samples i ⟨0x7FFF, 0x7FFF, 0x7FFF, 0x7FFF⟩ v)
    {s : State} (hcur : s.qcur = ⟨32767, 32767, 32767, 32767⟩) :
    ∃ t, exec i s = .next t ∧ t.result.qrel.w.toInt = 4294705156 := by
  have hqrel := orientUpdate_qrel_toInt ⟨0x7FFF, 0x7FFF, 0x7FFF, 0x7FFF⟩ v s
  have hnew : Quat.map sm16 ⟨0x7FFF, 0x7FFF, 0x7FFF, 0x7FFF⟩ = ⟨32767, 32767, 32767, 32767⟩ := by decide
  have hold : numerators s.qcur = ⟨32767, 32767, 32767, 32767⟩ := by
    rw [hcur]
    decide
  rw [hnew, hold, relQ_self] at hqrel
  exact ⟨_, h.exec_eq s, congrArg Quat.w hqrel⟩

/-- Settles O46: every effect leaves the relative numerators 0 or is a sample, which keeps the bound
(`orientUpdate_qrel_bound`), and each of the three forms of a sample can reach it (`Samples.qrel_reaches_bound`). -/
theorem relativeNumeratorsAreBounded : Obligations.RelativeNumeratorsAreBounded := by
  refine ⟨fun i s t hq h => ?_, fun v s hcur => ?_⟩
  · obtain hzero | ⟨raw, v, rfl⟩ := (effect_of_exec h).qrel_empty_or_sampled
    · rw [hzero]
      decide
    · exact orientUpdate_qrel_bound raw v hq
  · intro raw i hi
    simp only [List.mem_cons, List.not_mem_nil, or_false] at hi
    obtain rfl | rfl | rfl := hi
    · exact (Samples.orient raw).qrel_reaches_bound hcur
    · exact (Samples.g4Orient raw v).qrel_reaches_bound hcur
    · exact (Samples.g2Orient raw v).qrel_reaches_bound hcur

/-! ### Encoding -/

/-- Settles O45: ORIENT's row is one word (`decodeRecord_orient`), and a set reserved bit is judged before the operand block
(`decodeRecord_reserved`). -/
theorem orientIsEncodedWithoutFields : Obligations.OrientIsEncodedWithoutFields := by
  refine ⟨fun raw => decodeRecord_orient 0x00000040#32 (.quaternion raw) (by decide) (by decide),
    fun s w b hopc hreserved => ?_⟩
  rw [step_present, decodeRecord_reserved w b 0x40#8 8 (by decide) hopc hreserved]
  rfl

end Sys2Proof.Machine
end

section
/-! State reconciliation (spec/46_reconciliation.md): the checks of a reported state, the three ways of RECON, and its
encoding. -/

namespace Sys2Proof.Machine

open Sys2Proof.Spec

/-! ### The checks of a reported state -/

/-- Where each number below `n` is in exactly one of `n` slots, no slot holds any other number. -/
theorem lt_of_each_in_one_slot {n : Nat} {g : Fin n → Nat} (h : ∀ v < n, ∃! i : Fin n, g i = v) (i : Fin n) :
    g i < n := by
  choose slot hslot using fun v : Fin n => (h v v.isLt).exists
  have hinj : Function.Injective slot := fun v w hvw => Fin.ext <| by rw [← hslot v, hvw, hslot w]
  obtain ⟨v, rfl⟩ := Finite.surjective_of_injective hinj i
  rw [hslot v]
  exact v.isLt

theorem vs1_iff (c : CubeState) : vs1 c = true ↔ ∀ v < 8, ∃! i : Fin 8, c.cp[i].toNat = v := by
  rw [vs1, toList_map_eq_ofFn, eachOnce_ofFn]

theorem vs2_iff (c : CubeState) : vs2 c = true ↔ ∀ i : Fin 8, c.co[i].toNat ≤ 2 := coInRange_iff c

theorem vs3_iff (c : CubeState) : vs3 c = true ↔
    (∀ j : Fin 12, c.ep[j].toNat ≤ 11) ∧ ∀ v < 12, ∃! j : Fin 12, c.ep[j].toNat = v := by
  rw [vs3, toList_map_eq_ofFn, eachOnce_ofFn]
  exact ⟨fun h => ⟨fun j => Nat.le_of_lt_succ (lt_of_each_in_one_slot h j), h⟩, And.right⟩

theorem vs4_iff (c : CubeState) : vs4 c = true ↔ (∑ i : Fin 8, c.co[i].toNat) % 3 = 0 := by
  rw [vs4, coSum_eq, beq_iff_eq]

theorem vs5_iff (c : CubeState) : vs5 c = true ↔ (∑ j : Fin 12, c.eo[j].toNat) % 2 = 0 := by
  rw [vs5, eoSum_eq, beq_iff_eq]

/-- Settles O42, check by check: VS1 to VS5 are what they say of the lanes (`vs1_iff` to `vs5_iff`). That VS3 keeps every
edge piece in range is counting: twelve pieces fill the twelve slots (`lt_of_each_in_one_slot`). -/
theorem validStateIsTheFiveChecks : Obligations.ValidStateIsTheFiveChecks := by
  intro c
  simp only [validState, Bool.and_eq_true, and_assoc, vs1_iff, vs2_iff, vs3_iff, vs4_iff, vs5_iff]

/-! ### The three ways of RECON -/

/-- A reported state that fails a check raises STATE_INVALID and changes nothing else (R170). -/
theorem exec_recon_invalid {c : CubeState} (h : validState c = false) (s : State) :
    exec (.recon c) s = .next (raised 0x30#32 s) :=
  if_pos h

/-- A valid state equal to the simulated one is adopted, which changes nothing but RESULT (R172, R173). -/
theorem exec_recon_match {c : CubeState} {s : State} (hv : validState c = true) (hc : s.cube = c) :
    exec (.recon c) s = .next (finished s) := by
  subst hc
  simp only [exec, execRecon, hv, completeOk_eq_finished, Bool.true_eq_false, if_false, if_true]

/-- A valid state that differs is adopted with the warning that shows both; its status is OK, which is 0 (R172, R173). -/
theorem exec_recon_mismatch {c : CubeState} {s : State} (hv : validState c = true) (hc : s.cube ≠ c) :
    exec (.recon c) s = .next { s with
      cube := c
      result := { Result.empty with kind := .reconWarn, expState := s.cube, actState := c } } := by
  simp only [exec, execRecon, hv, hc, statusWord_ok, Bool.true_eq_false, if_false]
  rfl

/-! ### RECON from its word to its effect -/

/-- Settles O43: RECON's row is one word (`decodeRecord_recon`), a set reserved bit is judged before the operand block
(`decodeRecord_reserved`), and the three ways of RECON are its three branches. -/
theorem reconWarnsOnMismatchAndAdopts : Obligations.ReconWarnsOnMismatchAndAdopts := by
  refine ⟨fun c => decodeRecord_recon 0x00000030#32 (.state c) (by decide) (by decide),
    fun s w b hopc hreserved => ?_,
    fun c s => ⟨fun h => exec_recon_invalid h s, exec_recon_match, exec_recon_mismatch⟩⟩
  rw [step_present, decodeRecord_reserved w b 0x30#8 8 (by decide) hopc hreserved]
  rfl

end Sys2Proof.Machine
end

section
/-! The control commands (spec/47_control.md): NOP, RESET and SETGEN from word to effect, and who writes GEN and the
tracker. -/

namespace Sys2Proof.Machine

open Sys2Proof.Spec Sys2Proof.Laws

/-! ### Reserved bits -/

/-- In every row a set reserved bit is judged before the operand block, and raises ILLEGAL_CMD (30_encoding.md R74). -/
theorem reservedBitsIllegal_of_row {opc : BitVec 8} {lowest : Nat} (hrow : (opc, lowest) ∈
    [(0x00#8, 8), (0x01#8, 8), (0x02#8, 11), (0x10#8, 16), (0x20#8, 13), (0x30#8, 8), (0x40#8, 8)]) :
    reservedBitsIllegal opc lowest := by
  intro s w b hopc hreserved
  rw [step_present, decodeRecord_reserved w b opc lowest hrow hopc hreserved]
  rfl

/-! ### NOP -/

/-- Settles O3: NOP's row is one word, its reserved bits are those of `reservedBitsIllegal_of_row`, and its meaning is to
complete with OK. -/
theorem nopOnlyClearsResult : Obligations.NopOnlyClearsResult :=
  ⟨decodeRecord_nop 0x00000000#32 .none (by decide) (by decide), reservedBitsIllegal_of_row (by decide),
    fun s => congrArg Host.Outcome.next (completeOk_eq_finished s)⟩

/-! ### SETGEN -/

/-- The generation an operand names is the one with its code (R182, 30_encoding.md R78). -/
theorem generationOfCode_eq_some_iff (g : BitVec 3) (G : Generation) :
    generationOfCode g = some G ↔ G ≠ .none ∧ G.code = g := by
  cases G <;> revert g <;> decide

/-- An operand names no generation unless it is 2, 3 or 4 (R182, 30_encoding.md R78). -/
theorem generationOfCode_eq_none_iff (g : BitVec 3) : generationOfCode g = none ↔ g ≠ 2#3 ∧ g ≠ 3#3 ∧ g ≠ 4#3 := by
  revert g
  decide

theorem exec_setgen_badGen {g : BitVec 3} (h : generationOfCode g = none) (s : State) :
    exec (.setgen g) s = .next (raised 0x23#32 s) := by
  simp only [exec, execSetgen, h]
  rfl

theorem exec_setgen_locked {g : BitVec 3} {G : Generation} (h : generationOfCode g = some G) {s : State}
    (hs : s.gen ≠ .none) : exec (.setgen g) s = .next (raised 0x24#32 s) := by
  simp only [exec, execSetgen, h, if_pos hs]
  rfl

theorem exec_setgen_select {g : BitVec 3} {G : Generation} (h : generationOfCode g = some G) {s : State}
    (hs : s.gen = .none) : exec (.setgen g) s = .next (finished { s with gen := G }) := by
  simp only [exec, execSetgen, h, hs, ne_eq, not_true_eq_false, if_false, completeOk_eq_finished]

/-- The ways SETGEN can end, in the order of its checks (R182). -/
theorem exec_setgen_cases {g : BitVec 3} {s t : State} (h : exec (.setgen g) s = .next t) :
    t = raised 0x23#32 s ∨ t = raised 0x24#32 s ∨ s.gen = .none ∧ ∃ G, t = finished { s with gen := G } := by
  cases hg : generationOfCode g with
  | none => exact .inl (Host.Outcome.next.inj (h.symm.trans (exec_setgen_badGen hg s)))
  | some G =>
    by_cases hs : s.gen = .none
    · exact .inr (.inr ⟨hs, G, Host.Outcome.next.inj (h.symm.trans (exec_setgen_select hg hs))⟩)
    · exact .inr (.inl (Host.Outcome.next.inj (h.symm.trans (exec_setgen_locked hg hs))))

/-- Settles O4: a word of SETGEN's row decodes to its field (`decodeRecord_setgen`), DECODE judges GEN first
(`exec_decode_none`), and the operands 2, 3 and 4 are the codes of the generations (`generationOfCode_eq_some_iff`). -/
theorem setgenSelectsOnceThenLocks : Obligations.SetgenSelectsOnceThenLocks := by
  refine ⟨fun w hrow => ?_, reservedBitsIllegal_of_row (by decide), fun P s hgen => exec_decode_none P s hgen,
    fun g s => ⟨fun h2 h3 h4 => ?_, fun hlegal hgen => ?_, fun G hG hcode hgen => ?_⟩⟩
  · obtain ⟨hopc, hclear⟩ := (row_setgen w).mp hrow
    exact decodeRecord_setgen w .none hopc hclear
  · exact exec_setgen_badGen ((generationOfCode_eq_none_iff g).mpr ⟨h2, h3, h4⟩) s
  · obtain rfl | rfl | rfl := hlegal
    · exact exec_setgen_locked (G := .gen2) rfl hgen
    · exact exec_setgen_locked (G := .gen3) rfl hgen
    · exact exec_setgen_locked (G := .gen4) rfl hgen
  · exact exec_setgen_select ((generationOfCode_eq_some_iff g G).mpr ⟨hG, hcode⟩) hgen

/-! ### Who writes GEN -/

/-- An instruction for which a change of GEN before it shows after it as that same change keeps GEN: the change is taken to
the value GEN has. -/
theorem gen_eq_of_setGen {i : Instr} {s t : State} (h : exec i s = .next t)
    (hset : exec i { s with gen := s.gen } = .next { t with gen := s.gen }) : t.gen = s.gen :=
  have hkeep : t = { t with gen := s.gen } := Host.Outcome.next.inj (h.symm.trans hset)
  hkeep ▸ rfl

/-- DECODE reads GEN and leaves it: it raises a status or runs a packet, and no packet writes GEN (R183). -/
theorem exec_decode_gen {P : List Byte} {s t : State} (h : exec (.decode P) s = .next t) : t.gen = s.gen := by
  obtain ⟨-, he⟩ | ⟨-, -, he⟩ | ⟨-, p, -, -, he⟩ := exec_decode_cases P s
  · cases h.symm.trans he
    rfl
  · cases h.symm.trans he
    rfl
  · have hp := he.symm.trans h
    exact gen_eq_of_setGen hp (packet_setGen s.gen hp)

/-- Only RESET and SETGEN write GEN (R183). -/
theorem reset_or_setgen_of_gen_ne {i : Instr} {s t : State} (h : exec i s = .next t) (hne : t.gen ≠ s.gen) :
    i = .reset ∨ ∃ g, i = .setgen g := by
  by_contra hother
  obtain ⟨hreset, hsetgen⟩ := not_or.mp hother
  by_cases hdecode : ∃ P, i = .decode P
  · obtain ⟨P, rfl⟩ := hdecode
    exact hne (exec_decode_gen h)
  · exact hne (gen_eq_of_setGen h
      (otherCommandsDoNotReadGen i s t s.gen (not_exists.mp hdecode) (not_exists.mp hsetgen) hreset h))

/-- Once a generation is selected, SETGEN leaves it (R182). -/
theorem exec_setgen_gen_of_selected {g : BitVec 3} {s t : State} (h : exec (.setgen g) s = .next t)
    (hs : s.gen ≠ .none) : t.gen = s.gen := by
  obtain rfl | rfl | ⟨hnone, -⟩ := exec_setgen_cases h
  · rfl
  · rfl
  · exact absurd hnone hs

/-! ### RESET -/

/-- Settles O2: RESET's row is one word, and its effect is the reset state with the host's records kept (`exec_reset`),
which a second RESET finds and leaves. Of the two writers of GEN, SETGEN is locked. -/
theorem resetCommandReturnsEveryRegister : Obligations.ResetCommandReturnsEveryRegister := by
  refine ⟨decodeRecord_reset 0x00000001#32 .none (by decide) (by decide), reservedBitsIllegal_of_row (by decide),
    exec_reset, fun s => ?_, fun i s t h hselected hne => ?_⟩
  · rw [execAll_cons (exec_reset s), execAll_cons (exec_reset _), exec_reset]
    rfl
  · obtain hreset | ⟨g, rfl⟩ := reset_or_setgen_of_gen_ne h hne
    · exact hreset
    · exact absurd (exec_setgen_gen_of_selected h hselected) hne

/-! ### The ways of APPLY and RECON -/

/-- The ways APPLY can end, in the order of its checks (40_cube_state.md R101). -/
theorem exec_apply_cases {f : BitVec 3} {m : BitVec 2} {s t : State} (h : exec (.apply f m) s = .next t) :
    t = raised 0x21#32 s ∨ t = raised 0x22#32 s ∨ ∃ c, t = finished { s with cube := c } := by
  cases applyOperands f m with
  | badFace _ _ hf => exact .inl (Host.Outcome.next.inj (h.symm.trans (exec_apply_badFace hf m s)))
  | badModifier face => exact .inr (.inl (Host.Outcome.next.inj (h.symm.trans (exec_apply_badModifier face s))))
  | move face mod => exact .inr (.inr ⟨_, Host.Outcome.next.inj (h.symm.trans (exec_apply_move face mod s))⟩)

/-- RECON raises STATE_INVALID, or writes the cube and a result with code OK (46_reconciliation.md R170). -/
theorem exec_recon_cases {c : CubeState} {s t : State} (h : exec (.recon c) s = .next t) :
    t = raised 0x30#32 s ∨ ∃ r : Result, r.code = 0x00#8 ∧ t = { s with cube := c, result := r } := by
  cases hv : validState c with
  | false => exact .inl (Host.Outcome.next.inj (h.symm.trans (exec_recon_invalid hv s)))
  | true =>
    by_cases hc : s.cube = c
    · subst hc
      exact .inr ⟨_, rfl, Host.Outcome.next.inj (h.symm.trans (exec_recon_match hv rfl))⟩
    · exact .inr ⟨_, rfl, Host.Outcome.next.inj (h.symm.trans (exec_recon_mismatch hv hc))⟩

/-! ### Who writes the tracker -/

/-- The tracker's registers are those of before. -/
def keepsTracker (s t : State) : Prop := t.trkSeeded = s.trkSeeded ∧ t.trkLast = s.trkLast

/-- The instructions that may write the tracker's registers of a state, apart from a DECODE that runs one of them
(R183). -/
inductive WritesTracker (s : State) : Instr → Prop where
  | reset : WritesTracker s .reset
  | snapshot (c : Byte) : WritesTracker s (.g2Snapshot c)
  | batch (c : Byte) (slots : Vector Slot 7) (hs : s.trkSeeded = true) : WritesTracker s (.g2Batch c slots)

/-- An instruction other than DECODE is a writer of the tracker or keeps it. -/
theorem writesTracker_or_keepsTracker {i : Instr} {s t : State} (hdecode : ∀ P, i ≠ .decode P)
    (h : exec i s = .next t) : WritesTracker s i ∨ keepsTracker s t := by
  cases i with
  | nop => cases h; exact .inr ⟨rfl, rfl⟩
  | reset => exact .inl .reset
  | setgen g =>
    right
    obtain rfl | rfl | ⟨-, G, rfl⟩ := exec_setgen_cases h
    · exact ⟨rfl, rfl⟩
    · exact ⟨rfl, rfl⟩
    · exact ⟨rfl, rfl⟩
  | decode P => exact absurd rfl (hdecode P)
  | apply f m =>
    right
    obtain rfl | rfl | ⟨c, rfl⟩ := exec_apply_cases h
    · exact ⟨rfl, rfl⟩
    · exact ⟨rfl, rfl⟩
    · exact ⟨rfl, rfl⟩
  | recon c =>
    right
    obtain rfl | ⟨r, -, rfl⟩ := exec_recon_cases h
    · exact ⟨rfl, rfl⟩
    · exact ⟨rfl, rfl⟩
  | orient => cases h; exact .inr ⟨rfl, rfl⟩
  | g4Move d o => cases h; exact .inr ⟨decodeOneHotMove_trkSeeded d o s, decodeOneHotMove_trkLast d o s⟩
  | g4Orient => cases h; exact .inr ⟨rfl, rfl⟩
  | g4Unknown => cases h; exact .inr ⟨rfl, rfl⟩
  | g3Dropped => cases h; exact .inr ⟨rfl, rfl⟩
  | g3MoveA d o => cases h; exact .inr ⟨decodeOneHotMove_trkSeeded d o s, decodeOneHotMove_trkLast d o s⟩
  | g3MoveB d o => cases h; exact .inr ⟨decodeOneHotMove_trkSeeded d o s, decodeOneHotMove_trkLast d o s⟩
  | g3Unknown => cases h; exact .inr ⟨rfl, rfl⟩
  | g2Snapshot c => exact .inl (.snapshot c)
  | g2Batch c slots =>
    cases hs : s.trkSeeded with
    | true => exact .inl (.batch c slots hs)
    | false =>
      cases h.symm.trans (exec_g2Batch_unseeded c slots hs)
      exact .inr ⟨rfl, rfl⟩
  | g2Orient => cases h; exact .inr ⟨rfl, rfl⟩
  | g2Unknown => cases h; exact .inr ⟨rfl, rfl⟩

/-- A byte's high nibble is its quotient by 16. -/
theorem toNat_div_16_of_highNibble {b : Byte} {v : BitVec 4} (h : b.extractLsb' 4 4 = v) : b.toNat / 16 = v.toNat := by
  subst h
  have := b.isLt
  rw [BitVec.extractLsb'_toNat, Nat.shiftRight_eq_div_pow]
  omega

/-- A payload that Gen2 reads as a writer of the tracker has that packet's tag (44_decode_gen2.md R140). -/
theorem tag_of_decodeGen2_writesTracker {P : List Byte} {s : State} (h : WritesTracker s (decodeGen2 P).toInstr) :
    (P.getD 0 0).toNat / 16 = 4 ∨ (P.getD 0 0).toNat / 16 = 2 ∧ s.trkSeeded = true := by
  rw [decodeGen2_bytes] at h
  split_ifs at h with hsnapshot hbatch
  · exact .inl (toNat_div_16_of_highNibble hsnapshot)
  · cases h with
    | batch _ _ hs => exact .inr ⟨toNat_div_16_of_highNibble hbatch, hs⟩
  · cases h
  · cases h

/-- Only packets of Gen2 write the tracker (R183). -/
theorem generation_of_writesTracker {p : Packet} {s : State} (h : WritesTracker s p.toInstr) :
    p.generation = .gen2 := by
  cases p with
  | g2Snapshot => rfl
  | g2Batch => rfl
  | _ => cases h

/-- A DECODE that writes the tracker runs a snapshot or a seeded batch of Gen2 (R183). -/
theorem decode_of_writes_tracker {P : List Byte} {s t : State} (h : exec (.decode P) s = .next t)
    (hw : ¬ keepsTracker s t) : s.gen = .gen2 ∧ acceptedLength P.length ∧
      ((P.getD 0 0).toNat / 16 = 4 ∨ (P.getD 0 0).toNat / 16 = 2 ∧ s.trkSeeded = true) := by
  obtain ⟨-, he⟩ | ⟨-, -, he⟩ | ⟨hlen, p, hp, hpgen, he⟩ := exec_decode_cases P s
  · exact absurd (Host.Outcome.next.inj (h.symm.trans he) ▸ ⟨rfl, rfl⟩) hw
  · exact absurd (Host.Outcome.next.inj (h.symm.trans he) ▸ ⟨rfl, rfl⟩) hw
  · have hwrites := (writesTracker_or_keepsTracker (toInstr_ne_decode p) (he.symm.trans h)).resolve_right hw
    have hgen : s.gen = .gen2 := hpgen.symm.trans (generation_of_writesTracker hwrites)
    rw [hgen] at hp
    cases hp
    exact ⟨hgen, (mem_payloadLengths_iff _).mp hlen, tag_of_decodeGen2_writesTracker hwrites⟩

/-- Settles O5: GEN by `reset_or_setgen_of_gen_ne`; a writer of the tracker is one of the three of `WritesTracker`, or a
DECODE that runs one. -/
theorem onlyNamedCommandsWriteGenAndTracker : Obligations.OnlyNamedCommandsWriteGenAndTracker := by
  intro i s t h
  refine ⟨reset_or_setgen_of_gen_ne h, fun hne => ?_⟩
  have hw : ¬ keepsTracker s t := fun ⟨hseeded, hlast⟩ => hne.elim (absurd hseeded) (absurd hlast)
  by_cases hdecode : ∃ P, i = .decode P
  · obtain ⟨P, rfl⟩ := hdecode
    exact .inr (.inr (.inr ⟨P, rfl, decode_of_writes_tracker h hw⟩))
  · cases (writesTracker_or_keepsTracker (not_exists.mp hdecode) h).resolve_right hw with
    | reset => exact .inl rfl
    | snapshot c => exact .inr (.inl ⟨c, rfl⟩)
    | batch c slots hs => exact .inr (.inr (.inl ⟨hs, c, slots, rfl⟩))

end Sys2Proof.Machine
end

section
/-! Status codes (spec/60_exceptions.md): that every command ends with one, which one it may be, and that a raised status
is precise. -/

namespace Sys2Proof.Machine

open Sys2Proof.Spec

/-! ### The step on a presented record -/

/-- Settles O7: the branch of `step` for no record. -/
theorem stepWithNoRecordKeepsAllState : Obligations.StepWithNoRecordKeepsAllState := by
  intro s hpending
  simp only [step, hpending]

/-- A presented command completes: its instruction does, or its word is illegal (R200). -/
theorem step_present_completes {r : CommandRecord} (hr : presentable r) (s : State) :
    ∃ t, step (s.present r) = .next t := by
  obtain ⟨hlength, hkind⟩ := hr
  rw [step_present]
  cases hd : decodeRecord r with
  | ok i =>
    obtain ⟨t, ht, -⟩ := exec_effect i s
    exact ⟨t, ht⟩
  | error e =>
    cases e with
    | unassignedOpcode => exact ⟨_, rfl⟩
    | reservedBits => exact ⟨_, rfl⟩
    | payloadLength => exact absurd hd hlength
    | operandKind => exact absurd hd hkind

/-- A step that completes has performed the record it found. -/
theorem performed_of_step_present {r : CommandRecord} {s t : State} (h : step (s.present r) = .next t) :
    performed r s t := by
  rw [step_present] at h
  unfold performed
  cases hd : decodeRecord r with
  | ok i => simpa only [hd] using h
  | error e =>
    rw [hd] at h
    cases e with
    | unassignedOpcode => exact (Host.Outcome.next.inj h).symm
    | reservedBits => exact (Host.Outcome.next.inj h).symm
    | payloadLength => cases h
    | operandKind => cases h

/-- Performing a record has an effect: its instruction's, or the raise of ILLEGAL_CMD. -/
theorem effect_of_performed {r : CommandRecord} {s t : State} (h : performed r s t) : Effect s t := by
  unfold performed at h
  split at h
  · exact effect_of_exec h
  · subst h
    exact .raised .illegalCmd (by decide) (by decide)

/-- The effect behind a completed step on a presented record. -/
theorem effect_of_step_present {r : CommandRecord} {s t : State} (h : step (s.present r) = .next t) : Effect s t :=
  effect_of_performed (performed_of_step_present h)

/-! ### Every command ends with a code -/

/-- A result's code is that of its status word (10_state.md R28). -/
theorem code_of_status {r : Result} {c : StatusCode} {skip : BitVec 3} {delta : BitVec 8}
    (h : r.status = statusWord c skip delta) : r.code = c.code := by
  rw [Result.code, h, statusWord_code]

/-- Every effect leaves one of the thirteen codes (R201). -/
theorem Effect.code_mem_statusCodes {s t : State} (h : Effect s t) : t.result.code ∈ statusCodes := by
  obtain ⟨c, skip, delta, hstatus, -⟩ := h.status
  rw [code_of_status hstatus]
  exact code_mem c

/-- Settles O10: a presented command completes (`step_present_completes`) with an effect, which leaves a code
(`Effect.code_mem_statusCodes`) and the host's other records (`Effect.pending`). -/
theorem everyPresentedCommandEndsWithAStatus : Obligations.EveryPresentedCommandEndsWithAStatus := by
  intro s r hr
  obtain ⟨t, ht⟩ := step_present_completes hr s
  have heffect := effect_of_step_present ht
  exact ⟨t, ht, heffect.code_mem_statusCodes, heffect.pending⟩

/-! ### A raised status is precise -/

/-- An effect with another code than OK and WARN_NO_NEW is a raise, which changes RESULT alone (R203, R204). -/
theorem Effect.eq_raised {s t : State} (h : Effect s t) (hok : t.result.code ≠ 0x00#8) (hwarn : t.result.code ≠ 0x01#8) :
    t = Spec.raised (t.result.code.setWidth 32) s := by
  obtain ⟨c, skip, delta, hstatus, hraised, -⟩ := h.status
  rw [code_of_status hstatus] at hok hwarn ⊢
  rw [hraised (fun hc => hok (hc ▸ rfl)) (fun hc => hwarn (hc ▸ rfl)), raiseStatus, statusWord_plain]
  rfl

/-- Settles O12: both an instruction and a step on a presented record have an effect, which is precise where it raises
(`Effect.eq_raised`). -/
theorem raisedStatusLeavesAllOtherRegisters : Obligations.RaisedStatusLeavesAllOtherRegisters :=
  ⟨fun _ _ _ h => (effect_of_exec h).eq_raised, fun _ _ _ h => (effect_of_step_present h).eq_raised⟩

/-! ### The codes of each instruction -/

@[simp] theorem raised_code (status : BitVec 32) (s : State) :
    (raised status s).result.code = status.extractLsb' 0 8 := rfl
@[simp] theorem finished_code (s : State) : (finished s).result.code = 0x00#8 := rfl
@[simp] theorem orientUpdate_code (raw : Quat16) (v : Velocity) (s : State) :
    (orientUpdate raw v s).result.code = 0x00#8 := rfl

/-- A one-hot move ends with OK, or with MALFORMED_ONEHOT where no bit is named (41_decode_common.md R113). -/
theorem decodeOneHotMove_code (d : BitVec 2) (o : BitVec 6) (s : State) :
    (decodeOneHotMove d o s).result.code = 0x00#8 ∨ (decodeOneHotMove d o s).result.code = 0x11#8 := by
  cases h : oneHotIndex o with
  | none => exact .inr (by rw [decodeOneHotMove_malformed d s h]; rfl)
  | some k => exact .inl (by rw [decodeOneHotMove_move d s h]; rfl)

/-- A seeded batch ends with OK, or with WARN_NO_NEW where it has no new moves (44_decode_gen2.md R144). -/
theorem seededBatch_code (c : Byte) (slots : Vector Slot 7) (s : State) :
    (seededBatch c slots s).result.code = 0x00#8 ∨ (seededBatch c slots s).result.code = 0x01#8 := by
  by_cases hp : pendingCount (counterDelta c s.trkLast) = 0
  · exact .inr (by rw [(seededBatch_none c slots s hp).1]; rfl)
  · obtain ⟨mv, -, -, he⟩ := seededBatch_new c slots s hp
    exact .inl (by rw [he, Result.code, statusWord_code, code_ok])

/-- The codes of every instruction but DECODE. -/
theorem exec_code_mem {i : Instr} {s t : State} (hdecode : ∀ P, i ≠ .decode P) (h : exec i s = .next t) :
    t.result.code ∈ codesOf i := by
  cases i with
  | nop => cases h; simp [codesOf, Result.code]
  | reset => cases h; simp [codesOf, Result.code]
  | setgen g => obtain rfl | rfl | ⟨-, G, rfl⟩ := exec_setgen_cases h <;> simp [codesOf]
  | decode P => exact absurd rfl (hdecode P)
  | apply f m => obtain rfl | rfl | ⟨c, rfl⟩ := exec_apply_cases h <;> simp [codesOf]
  | recon c =>
    obtain rfl | ⟨r, hr, rfl⟩ := exec_recon_cases h
    · simp [codesOf]
    · simp [codesOf, hr]
  | orient => cases h; simp [codesOf]
  | g4Move d o => cases h; simpa [codesOf] using decodeOneHotMove_code d o s
  | g4Orient => cases h; simp [codesOf]
  | g4Unknown => cases h; simp [codesOf, Result.code]
  | g3Dropped a b c => cases h.symm.trans (exec_g3Dropped a b c s); simp [codesOf]
  | g3MoveA d o => cases h; simpa [codesOf] using decodeOneHotMove_code d o s
  | g3MoveB d o => cases h; simpa [codesOf] using decodeOneHotMove_code d o s
  | g3Unknown => cases h; simp [codesOf, Result.code]
  | g2Snapshot => cases h; simp [codesOf, Result.code]
  | g2Batch c slots =>
    cases hs : s.trkSeeded with
    | false => cases h.symm.trans (exec_g2Batch_unseeded c slots hs); simp [codesOf]
    | true =>
      cases h.symm.trans (exec_g2Batch_seeded c slots hs)
      obtain hcode | hcode := seededBatch_code c slots s <;> simp [codesOf, hcode]
  | g2Orient => cases h; simp [codesOf]
  | g2Unknown => cases h; simp [codesOf, Result.code]

/-- DECODE may end with whatever code its packet may (R201). -/
theorem codesOf_toInstr_subset (p : Packet) (P : List Byte) : codesOf p.toInstr ⊆ codesOf (.decode P) := by
  cases p <;> simp [Packet.toInstr, codesOf]

/-- Settles O13: DECODE raises NO_GEN or MALFORMED_LENGTH or ends as its packet (`exec_decode_cases`), and the other
instructions end with the codes of `exec_code_mem`. -/
theorem statusCodesByInstruction : Obligations.StatusCodesByInstruction := by
  intro i s t h
  by_cases hdecode : ∃ P, i = .decode P
  · obtain ⟨P, rfl⟩ := hdecode
    obtain ⟨-, he⟩ | ⟨-, -, he⟩ | ⟨-, p, -, -, he⟩ := exec_decode_cases P s
    · cases h.symm.trans he
      simp [codesOf, Result.code]
    · cases h.symm.trans he
      simp [codesOf, Result.code]
    · exact codesOf_toInstr_subset p P (exec_code_mem (toInstr_ne_decode p) (he.symm.trans h))
  · exact exec_code_mem (not_exists.mp hdecode) h

end Sys2Proof.Machine
end

section
/-! Runs and hazards (spec/70_reset_and_hazards.md): a run performs its records in order (R226), and what a stale and a
repeated batch do (R228). -/

namespace Sys2Proof.Machine

open Sys2Proof.Spec

/-! ### Runs -/

theorem core_run_succ {s t : State} (h : step s = .next t) (k : Nat) : core.run (k + 1) s = core.run k t := by
  have hcore : core.step s = .next t := h
  simp only [Host.Core.run, hcore]

theorem observe_succ {s t : State} (h : step s = .next t) (k : Nat) : observe (k + 1) s = t.result :: observe k t := by
  simp only [observe, h]

/-- A presented command is performed by one step, which leaves the records after it (20_memory.md R60). -/
theorem step_present_performs {r : CommandRecord} (hr : presentable r) (s : State) :
    ∃ t, step (s.present r) = .next t ∧ performed r s t ∧ t.pending = s.pending := by
  obtain ⟨t, ht⟩ := step_present_completes hr s
  exact ⟨t, ht, performed_of_step_present ht, (effect_of_step_present ht).pending⟩

/-- Settles O11, by induction on the records: the first is performed by one step (`step_present_performs`), the others are
the run from the state it leaves, and that run's states stand behind the first. -/
theorem runPerformsEveryRecordOnce : Obligations.RunPerformsEveryRecordOnce := by
  intro rs
  induction rs with
  | nil =>
    intro s _
    refine ⟨fun _ => { s with pending := [] }, fun k hk => ?_, fun k hk => absurd hk (Nat.not_lt_zero k), fun k hk => ?_⟩
    · obtain rfl := Nat.le_zero.mp hk
      exact ⟨rfl, rfl⟩
    · obtain rfl := Nat.le_zero.mp hk
      rfl
  | cons r rs ih =>
    intro s hrs
    obtain ⟨hr, hrest⟩ := List.forall_mem_cons.mp hrs
    obtain ⟨t, hstep, hfirst, hpending⟩ := step_present_performs hr { s with pending := rs }
    replace hstep : step { s with pending := r :: rs } = .next t := hstep
    obtain ⟨left, hrun, hperformed, hobserved⟩ := ih t hrest
    have ht : { t with pending := rs } = t := congrArg (fun p => { t with pending := p }) hpending.symm
    rw [ht] at hrun hobserved
    have hzero : left 0 = t := (Host.Outcome.next.inj (hrun 0 (Nat.zero_le _)).1).symm
    refine ⟨Stream'.cons { s with pending := r :: rs } left, fun k hk => ?_, fun k hk => ?_, fun k hk => ?_⟩
    · cases k with
      | zero => exact ⟨rfl, rfl⟩
      | succ k =>
        rw [core_run_succ hstep]
        exact hrun k (Nat.le_of_succ_le_succ hk)
    · cases k with
      | zero =>
        rw [← hzero] at hfirst
        exact hfirst
      | succ k => exact hperformed k (Nat.lt_of_succ_lt_succ hk)
    · cases k with
      | zero => rfl
      | succ k =>
        rw [observe_succ hstep, hobserved k (Nat.le_of_succ_le_succ hk), List.range_succ_eq_map, List.map_cons,
          List.map_map, ← hzero]
        rfl

/-! ### Stale and repeated batches -/

/-- The counter before the last one reads as 255 new moves (R228, 44_decode_gen2.md R144). -/
theorem counterDelta_stale (last : Byte) : counterDelta (last - 1) last = 255 := by
  rw [counterDelta, sub_right_comm, sub_self]
  rfl

/-- Of the slots a batch with new moves reads, RES_N counts the moves and SKIP the others (44_decode_gen2.md R145,
R146). -/
theorem seededBatch_n_add_skip (c : Byte) (slots : Vector Slot 7) (s : State)
    (h : pendingCount (counterDelta c s.trkLast) ≠ 0) :
    (seededBatch c slots s).result.n.toNat + (seededBatch c slots s).result.skip.toNat =
      pendingCount (counterDelta c s.trkLast) := by
  obtain ⟨mv, -, hlen, he⟩ := seededBatch_new c slots s h
  have hread := readOrder_length slots (pendingCount (counterDelta c s.trkLast))
  have hpending := pendingCount_le (counterDelta c s.trkLast)
  have hmoves := movesRead_length_le (readOrder slots (pendingCount (counterDelta c s.trkLast)))
  rw [he, Result.skip, statusWord_skip, BitVec.toNat_ofNat, BitVec.toNat_ofNat]
  omega

/-- The DELTA of a seeded batch is the counter difference (44_decode_gen2.md R144). -/
theorem seededBatch_delta (c : Byte) (slots : Vector Slot 7) (s : State) :
    (seededBatch c slots s).result.delta = counterDelta c s.trkLast := by
  simp only [seededBatch]
  split <;> exact statusWord_delta _ _ _

/-- Settles O36: a stale counter differs by 255 (`counterDelta_stale`), so all seven slots are read
(`seededBatch_n_add_skip`); a repeated one differs by 0. -/
theorem staleBatchIsDecodedRepeatedBatchIsNot : Obligations.StaleBatchIsDecodedRepeatedBatchIsNot := by
  intro slots s hseeded
  constructor
  · refine ⟨_, exec_g2Batch_seeded (s.trkLast - 1) slots hseeded, ?_, ?_, seededBatch_trkLast _ slots s⟩
    · rw [seededBatch_delta, counterDelta_stale]
    · have hpending : pendingCount (counterDelta (s.trkLast - 1) s.trkLast) = 7 := by
        rw [counterDelta_stale]
        rfl
      rw [seededBatch_n_add_skip _ slots s (by omega), hpending]
  · obtain ⟨-, hrepeated, -⟩ := moveBatchDecodesThePendingSlots s.trkLast slots s
    exact hrepeated hseeded (by rw [Nat.add_sub_cancel_left])

end Sys2Proof.Machine
end
